-- ==== Sys2Proof/Word.lean ====
section
/-! DEFINITION. The 32-bit word of the register window (spec/20_memory.md R62, R64): every legal
access moves one whole word. -/

namespace Sys2Proof

/-- One word of the register window; bit 0 is the least significant bit (R7, R62). -/
abbrev Word := BitVec 32

end Sys2Proof
end

