-- ==== Sys2Proof/Config.lean ====
section
/-! DEFINITION. What an implementation of NTE fixes (spec/00_scope.md R6), the constants of the
block, and the free values: what the spec leaves open. -/

namespace Sys2Proof

/-- The level of `rst` that asserts reset (R242). -/
inductive Polarity where
  | activeHigh
  | activeLow
  deriving DecidableEq, Repr

/-- Whether reset acts at once or with the clock (R242). -/
inductive Synchronicity where
  | asynchronous
  | synchronous
  deriving DecidableEq, Repr

/-- RST_STYLE (R6, R242). The polarity says which level the pin `rst` has (`State.rstPin`); no rule
depends on the other two (log 16). -/
structure RstStyle where
  polarity      : Polarity
  synchronicity : Synchronicity
  /-- The minimum assertion time, in clock cycles. -/
  minAssert     : Nat
  deriving DecidableEq, Repr

/-- The OPEN parameters of R6. They are a part of State that no step changes, so every statement
about every state holds for every choice of them (log 1, log 2). T_PRIM and T_STEP are durations and
are not here: no rule depends on them (R249, log 19). -/
structure Params where
  /-- W, the width in bits of every operand and result register (R6). -/
  w        : Nat
  /-- NTE_BASE, where the platform puts the 4 KiB window (R60). -/
  nteBase  : Nat
  /-- NTE_IRQ, the platform's number for the completion interrupt (R220). -/
  nteIrq   : Nat
  /-- RST_STYLE, of the pin `rst` (R6, R33, R242). -/
  rstStyle : RstStyle
  deriving DecidableEq, Repr

namespace Params

/-- NW, the number of 32-bit words of an operand or result register (R6). -/
def nw (p : Params) : Nat := p.w / 32

/-- WW = 2W, the least width R6 and R110 allow for the primitive port (log 11). -/
def ww (p : Params) : Nat := 2 * p.w

/-- The constraints of R6: W a multiple of 32 from 32 to 2048, and a 4 KiB aligned base. -/
abbrev Wf (p : Params) : Prop :=
  p.w % 32 = 0 ∧ 32 ≤ p.w ∧ p.w ≤ 2048 ∧ p.nteBase % 4096 = 0

/-- The parameters of `State.reset`: the smallest legal W, a base and an interrupt number of 0, and an
active-high asynchronous `rst`. DESIGN CHOICE (log 1, log 2): the spec leaves all four open. -/
def atReset : Params :=
  { w := 32, nteBase := 0, nteIrq := 0
    rstStyle := { polarity := .activeHigh, synchronicity := .asynchronous, minAssert := 1 } }

end Params

namespace Config

/-- ID always reads this: "NTE" in ASCII and interface version 1 (R27). -/
def idWord : Word := 0x4E544501#32

/-- What DIV answers for a divisor `y ≤ 0`, which is never issued and has no stated value (R104,
R106). A free value: no body, so no proof can see it (log 10). -/
opaque divNonPositive : Int → Int → Int

/-- What MOD answers for a divisor `y ≤ 0` (R105, R106). A free value, as above (log 10). -/
opaque modNonPositive : Int → Int → Int

end Config

end Sys2Proof
end

