-- ==== Sys2Proof/Syntax.lean ====
section
/-! DEFINITION. The instructions of spec/opcode_table.json, and the host's access language of
spec/30_encoding.md R90. -/

namespace Sys2Proof

/-- The rows of spec/opcode_table.json: four commands of format CMD32, which carry no operands
(R80), and five primitive-port requests of format XREQ_OP3, which carry two (R83). Port operands are
integers: the model's working registers are unbounded (R30, R109). -/
inductive Instr where
  | isprime
  | egcd
  | modinv
  | modpow
  | add (x y : Int)
  | sub (x y : Int)
  | mul (x y : Int)
  | div (x y : Int)
  | mod (x y : Int)
  deriving DecidableEq, Repr

/-- The four commands, which are also the values of CUR_OP (R31, R81). -/
inductive Command where
  | isprime
  | egcd
  | modinv
  | modpow
  deriving DecidableEq, Repr

/-- The five operations of the primitive port (R83). -/
inductive PrimOp where
  | add
  | sub
  | mul
  | div
  | mod
  deriving DecidableEq, Repr

/-- The command as an instruction. -/
def Command.instr : Command → Instr
  | .isprime => .isprime
  | .egcd    => .egcd
  | .modinv  => .modinv
  | .modpow  => .modpow

/-- The request `(op, x, y)` as an instruction. -/
def PrimOp.instr : PrimOp → Int → Int → Instr
  | .add, x, y => .add x y
  | .sub, x, y => .sub x y
  | .mul, x, y => .mul x y
  | .div, x, y => .div x y
  | .mod, x, y => .mod x y

/-- The operand registers (R22). -/
inductive OpReg where
  | opa
  | opb
  | opc
  deriving DecidableEq, Repr

/-- The result registers (R23). -/
inductive ResReg where
  | res0
  | res1
  | res2
  deriving DecidableEq, Repr

/-- A register name of the map R21, as `wr` and `rd` write it. -/
inductive RegName where
  | id
  | param
  | cmd
  | status
  | irqEn
  | op (r : OpReg)
  | res (r : ResReg)
  deriving DecidableEq, Repr

/-- A line of a host program (R90). Labels and variables are numbered (log 14). -/
inductive HostStmt where
  /-- `wr <reg>[k], <imm32>` -/
  | wr (r : RegName) (k : Nat) (imm : Word)
  /-- `rd <reg>[k] -> <name>` -/
  | rd (r : RegName) (k : Nat) (x : Nat)
  /-- `label:` -/
  | label (l : Nat)
  /-- `bne <name>, <mask>, <value>, <label>`; mask and value are integers of any size (R8, R90). -/
  | bne (x : Nat) (mask value : Int) (l : Nat)
  /-- The last part of `get`: `<name> <- sint_W({t_(NW-1), ..., t_0})` (R91). -/
  | sintOf (x : Nat) (ts : List Nat)
  deriving DecidableEq, Repr

end Sys2Proof
end

