-- ==== Sys2Proof/WellFormed.lean ====
section
/-! DEFINITION. Which instructions an encoding exists for (spec/30_encoding.md R80, R83). -/

namespace Sys2Proof

/-- `v` has a two's-complement pattern of `n` bits (R8). -/
def fitsBits (n : Nat) (v : Int) : Bool :=
  decide (-(2 : Int) ^ (n - 1) ≤ v) && decide (v ≤ (2 : Int) ^ (n - 1) - 1)

/-- The commands carry nothing that could be ill formed (R80); a port request carries two operands,
each of which must fit the port's WW bits (R83, R110). -/
def Instr.wellFormed (ww : Nat) : Instr → Bool
  | .isprime => true
  | .egcd    => true
  | .modinv  => true
  | .modpow  => true
  | .add x y => fitsBits ww x && fitsBits ww y
  | .sub x y => fitsBits ww x && fitsBits ww y
  | .mul x y => fitsBits ww x && fitsBits ww y
  | .div x y => fitsBits ww x && fitsBits ww y
  | .mod x y => fitsBits ww x && fitsBits ww y

end Sys2Proof
end

