-- ==== Sys2Proof/Decode.lean ====
section
/-! DEFINITION. The decoder and the encoder of spec/30_encoding.md R80 to R83 and R87. -/

namespace Sys2Proof

/-- OP of a command (R81). -/
def Command.op : Command → BitVec 4
  | .isprime => 0x1#4
  | .egcd    => 0x2#4
  | .modinv  => 0x3#4
  | .modpow  => 0x4#4

/-- x_req_op of a primitive (R83). -/
def PrimOp.code : PrimOp → BitVec 3
  | .add => 0b000#3
  | .sub => 0b001#3
  | .mul => 0b010#3
  | .div => 0b011#3
  | .mod => 0b100#3

/-- An encoded instruction: a CMD word (CMD32, R80), or a request on a primitive port of `ww` bits
(XREQ_OP3, R83), whose vector is `{x_req_op, x_req_x, x_req_y}`. -/
inductive Encoded (ww : Nat) where
  | cmd32 (v : Word)
  | xreq (v : BitVec (3 + ww + ww))
  deriving DecidableEq, Repr

/-- Why no instruction has this encoding. -/
inductive DecodeError where
  /-- CMD[31:4] is not zero (R82). -/
  | reservedBits
  /-- OP is 0x0 or 0x5 to 0xF (R81, R87). -/
  | reservedOp
  /-- x_req_op is 0b101 to 0b111 (R83). -/
  | reservedPrimCode
  deriving DecidableEq, Repr

/-- An instruction, or the reason there is none. -/
inductive Decoded where
  | instr (i : Instr)
  | illegal (e : DecodeError)
  deriving DecidableEq, Repr

/-- CMD[3:0], the field OP (R80). -/
def cmdOp (v : Word) : BitVec 4 := v.extractLsb' 0 4

/-- CMD[31:4], the field RSV (R80). -/
def cmdRsv (v : Word) : BitVec 28 := v.extractLsb' 4 28

/-- `decode(word)` of R82. -/
def decodeCmd (v : Word) : Decoded :=
  if cmdRsv v ≠ 0#28 then .illegal .reservedBits
  else match (cmdOp v).toNat with
    | 1 => .instr .isprime
    | 2 => .instr .egcd
    | 3 => .instr .modinv
    | 4 => .instr .modpow
    | _ => .illegal .reservedOp

/-- The request that a port vector carries, its operands in two's complement (R83). -/
def decodeReq {ww : Nat} (v : BitVec (3 + ww + ww)) : Decoded :=
  let x := (v.extractLsb' ww ww).toInt
  let y := (v.extractLsb' 0 ww).toInt
  match (v.extractLsb' (ww + ww) 3).toNat with
  | 0 => .instr (.add x y)
  | 1 => .instr (.sub x y)
  | 2 => .instr (.mul x y)
  | 3 => .instr (.div x y)
  | 4 => .instr (.mod x y)
  | _ => .illegal .reservedPrimCode

/-- The decoder, total on both formats. -/
def decode {ww : Nat} : Encoded ww → Decoded
  | .cmd32 v => decodeCmd v
  | .xreq v  => decodeReq v

/-- The CMD word of a command: RSV = 0 and its OP (R80, R81). -/
def Command.word (c : Command) : Word := 0#28 ++ c.op

/-- The port vector of a request (R83). -/
def encodeReq (ww : Nat) (op : PrimOp) (x y : Int) : BitVec (3 + ww + ww) :=
  op.code ++ BitVec.ofInt ww x ++ BitVec.ofInt ww y

/-- The encoder (R80 to R83). -/
def encode (ww : Nat) : Instr → Encoded ww
  | .isprime => .cmd32 Command.isprime.word
  | .egcd    => .cmd32 Command.egcd.word
  | .modinv  => .cmd32 Command.modinv.word
  | .modpow  => .cmd32 Command.modpow.word
  | .add x y => .xreq (encodeReq ww .add x y)
  | .sub x y => .xreq (encodeReq ww .sub x y)
  | .mul x y => .xreq (encodeReq ww .mul x y)
  | .div x y => .xreq (encodeReq ww .div x y)
  | .mod x y => .xreq (encodeReq ww .mod x y)

/-- The instruction, if there is one. -/
def Decoded.toOption : Decoded → Option Instr
  | .instr i   => some i
  | .illegal _ => none

/-- The decoder on a word numbered as spec/opcode_table.json numbers it. A CMD32 row has 32 bits. An
XREQ_OP3 row has the three bits of x_req_op, one byte with bits 7:3 in no field; the table gives the
operands no bits, so both are zero (log 12). The port is the one of the smallest legal W. -/
def decodeTableWord (nbits w : Nat) : Option Instr :=
  if nbits = 32 then
    if w < 2 ^ 32 then (decode (ww := 64) (.cmd32 (BitVec.ofNat 32 w))).toOption else none
  else if nbits = 8 then
    if w < 2 ^ 3 then
      (decode (ww := 64) (.xreq (BitVec.ofNat 3 w ++ 0#64 ++ 0#64))).toOption
    else none
  else none

end Sys2Proof
end

