-- ==== Sys2Proof/Machine/State.lean ====
section
/-! DEFINITION. The state of one NTE instance and of the environment that drives it, the reasons a
step can stop, and the state after reset (spec/10_state.md, spec/70_reset_and_hazards.md). -/

namespace Sys2Proof.Machine

/-- An operand or result register: its NW words, least significant first (R63). -/
abbrev DataReg := List Word

/-- The error codes that are ever produced (R210). -/
inductive ErrCode where
  | none
  | invalidModulus
  | illegalCommand
  | negativeExponent
  | resultRange
  deriving DecidableEq, Repr

/-- STATUS, one field per field of R25. The reserved bits read 0 and have no storage (log 18). -/
structure Status where
  busy   : Bool
  done   : Bool
  noinv  : Bool
  err    : ErrCode
  cmdOvr : Bool
  lastOp : BitVec 4
  deriving DecidableEq, Repr

/-- The sequencer's working registers (R30), unbounded signed integers. -/
structure Work where
  n   : Int
  a   : Int
  m   : Int
  b   : Int
  e   : Int
  c   : Int
  d   : Int
  r0  : Int
  r1  : Int
  s0  : Int
  s1  : Int
  t0  : Int
  t1  : Int
  q   : Int
  res : Int
  rem : Int
  t   : Int
  u   : Int
  deriving DecidableEq, Repr

/-- The step labels of ISPRIME (R151). -/
inductive IsprimeLabel where
  | s0 | s1 | s2 | s3 | s4
  deriving DecidableEq, Repr

/-- The step labels of EGCD_CORE (R170). -/
inductive CoreLabel where
  | e0 | e1 | e2 | e3 | e4 | e5 | e6 | e7
  deriving DecidableEq, Repr

/-- The step labels of EGCD (R172); G1 is the shared loop. -/
inductive EgcdLabel where
  | g0
  | g1 (l : CoreLabel)
  | g2
  deriving DecidableEq, Repr

/-- The step labels of MODINV (R173); I1 is the shared loop. -/
inductive ModinvLabel where
  | i0
  | i1 (l : CoreLabel)
  | i2 | i3 | i4 | i5 | i6
  deriving DecidableEq, Repr

/-- The step labels of MODPOW (R191). -/
inductive ModpowLabel where
  | p0 | p1 | p2 | p3 | p4 | p5 | p6
  deriving DecidableEq, Repr

/-- CUR_OP and the current step label together (R31). -/
inductive StepLabel where
  | isprime (l : IsprimeLabel)
  | egcd (l : EgcdLabel)
  | modinv (l : ModinvLabel)
  | modpow (l : ModpowLabel)
  deriving DecidableEq, Repr

/-- PHASE; CUR_OP and the step label exist while it is RUN (R31, log 15). -/
inductive Phase where
  | idle
  | run (l : StepLabel)
  deriving DecidableEq, Repr

/-- A request on the primitive port (R32, R83). -/
structure Request where
  op : PrimOp
  x  : Int
  y  : Int
  deriving DecidableEq, Repr

/-- h_resp (R33). -/
inductive Resp where
  | okay
  | error
  deriving DecidableEq, Repr

/-- The block's answer to the latest host access: h_resp and, for a read, h_rdata (R33, log 4). -/
inductive BusReply where
  | idle
  | wrote (r : Resp)
  | read (r : Resp) (data : Word)
  deriving DecidableEq, Repr

/-- One host access, as the ports h_we, h_addr, h_be and h_wdata carry it (R33). -/
structure Access where
  we    : Bool
  addr  : BitVec 12
  be    : BitVec 4
  wdata : Word
  deriving DecidableEq, Repr

/-- What happens next: which agent moves (R20, R70), or what the platform does to `rst` (R242). -/
inductive Turn where
  /-- The sequencer or the primitive unit: whichever of the two is not waiting for the other. -/
  | engine
  /-- The host performs the next line of its program. -/
  | host
  /-- A host access that no line of the program makes: another bus master, or an illegal access. -/
  | access (a : Access)
  | assertReset
  | releaseReset
  /-- A response to a request that a reset abandoned (R32, R241). -/
  | lateResponse (v : Int)
  deriving DecidableEq, Repr

/-- The host's program, its position in it, and its variables in the order they were first assigned
(R90, log 14). -/
structure HostAgent where
  prog : List HostStmt
  pc   : Nat
  vars : List (Nat × Int)
  deriving DecidableEq, Repr

/-- The whole state: parameters, the block, and (last two fields) the environment. -/
structure State where
  /-- W, NTE_BASE, NTE_IRQ and RST_STYLE (R6); no step changes them. -/
  params   : Params
  /-- The platform asserts reset now (R33, R242). -/
  rst      : Bool
  /-- R22 -/
  opa      : DataReg
  opb      : DataReg
  opc      : DataReg
  /-- R23 -/
  res0     : DataReg
  res1     : DataReg
  res2     : DataReg
  /-- R25 -/
  status   : Status
  /-- IRQ_EN.DONE_IE (R26) -/
  doneIe   : Bool
  /-- R30 -/
  work     : Work
  /-- R31 -/
  phase    : Phase
  /-- XPEND (R32) -/
  xpend    : Option Request
  /-- The handshake of x_req_valid and x_req_ready (R33) has happened for the request in `xpend`: the
  primitive unit has accepted it. While it has not, the request is offered only (log 28). -/
  xacc     : Bool
  /-- x_rsp_data while x_rsp_valid (R33): the response that the sequencer has not taken yet (log 8). -/
  xrsp     : Option Int
  /-- h_resp and h_rdata (R33, log 4) -/
  busReply : BusReply
  /-- The host's program (R90, log 14). -/
  host     : HostAgent
  /-- The turns to come; the model's own field (R70, R131, log 7). -/
  sched    : List Turn
  deriving DecidableEq, Repr

/-- Why the machine stops with a fault. All three are faults of the HOST'S PROGRAM, raised by
`hostTurn`: the block itself never stops (R217). Each is safe: the program has no meaning by R90. -/
inductive Fault where
  /-- `bne` or `get` names a variable that no line has assigned. Raised by `hostTurn`; safe. -/
  | undefinedVariable
  /-- `bne` goes to a label that the program does not have. Raised by `hostTurn`; safe. -/
  | undefinedLabel
  /-- `wr` or `rd` names a word outside the 4 KiB window (R60). Raised by `hostTurn`; safe. -/
  | outsideWindow
  deriving DecidableEq, Repr

/-- Why a step has no meaning. -/
inductive Refusal where
  /-- An instruction rejected by name in exec's arm; safe. No arm does so now. -/
  | notModelled (mnemonic : String)
  /-- A host access while reset is asserted: unspecified, "a model should refuse them" (R242,
  log 6). Raised by `portAccess`; safe. -/
  | accessDuringReset
  deriving DecidableEq, Repr

/-- The outcome of a step of this machine. -/
abbrev Out := Host.Outcome State Fault Refusal

/-- All status fields 0 (R25). -/
def Status.atReset : Status :=
  { busy := false, done := false, noinv := false, err := .none, cmdOvr := false, lastOp := 0#4 }

/-- R30 leaves the working registers unspecified at reset. DESIGN CHOICE: zero (log 3). -/
def Work.atReset : Work :=
  { n := 0, a := 0, m := 0, b := 0, e := 0, c := 0, d := 0, r0 := 0, r1 := 0, s0 := 0, s1 := 0,
    t0 := 0, t1 := 0, q := 0, res := 0, rem := 0, t := 0, u := 0 }

/-- The block right after reset with parameters `p` (R240), reset released, and an environment with
nothing in it (log 13). -/
def State.resetWith (p : Params) : State :=
  { params := p, rst := false
    opa := List.replicate p.nw 0#32, opb := List.replicate p.nw 0#32
    opc := List.replicate p.nw 0#32, res0 := List.replicate p.nw 0#32
    res1 := List.replicate p.nw 0#32, res2 := List.replicate p.nw 0#32
    status := Status.atReset, doneIe := false, work := Work.atReset, phase := .idle
    xpend := none, xacc := false, xrsp := none, busReply := .idle
    host := { prog := [], pc := 0, vars := [] }, sched := [] }

/-- The machine right after reset (R240), with the parameters of log 1 and log 2. -/
def State.reset : State := State.resetWith Params.atReset

end Sys2Proof.Machine
end

