-- ==== Sys2Proof/Machine/Flags.lean ====
section
/-! DEFINITION. STATUS, IRQ_EN and the interrupt: every way a status field changes
(spec/10_state.md R25, R26, R34; spec/41_command_interface.md; spec/60_exceptions.md R210, R220). -/

namespace Sys2Proof.Machine

/-- The number of an error code (R210). -/
def ErrCode.code : ErrCode → BitVec 4
  | .none             => 0#4
  | .invalidModulus   => 1#4
  | .illegalCommand   => 2#4
  | .negativeExponent => 3#4
  | .resultRange      => 4#4

/-- STATUS as the host reads it: LAST_OP 15:12, CMD_OVR 8, ERR 7:4, NOINV 2, DONE 1, BUSY 0, and
every reserved bit 0 (R25). -/
def Status.word (st : Status) : Word :=
  0#16 ++ st.lastOp ++ 0#3 ++ BitVec.ofBool st.cmdOvr ++ st.err.code ++ 0#1 ++
    BitVec.ofBool st.noinv ++ BitVec.ofBool st.done ++ BitVec.ofBool st.busy

/-- Acceptance of a legal command; CMD_OVR is not touched (R123). -/
def Status.accepted (st : Status) (op : BitVec 4) : Status :=
  { st with done := false, noinv := false, err := .none, lastOp := op, busy := true }

/-- Completion of an illegal command word whose OP field is `op` (R124). -/
def Status.illegal (st : Status) (op : BitVec 4) : Status :=
  { st with noinv := false, lastOp := op, err := .illegalCommand, done := true }

/-- A CMD write while busy (R125). -/
def Status.overrun (st : Status) : Status := { st with cmdOvr := true }

/-- The status part of a successful completion (R126). -/
def Status.committed (st : Status) (noinv : Bool) : Status :=
  { st with noinv := noinv, err := .none, busy := false, done := true }

/-- The status part of an error completion (R127). -/
def Status.raised (st : Status) (e : ErrCode) : Status :=
  { st with err := e, noinv := false, busy := false, done := true }

/-- A host write to STATUS: only the W1C bits 1 and 8 act (R25, R121). -/
def Status.writeOneToClear (st : Status) (v : Word) : Status :=
  { st with done := st.done && !v.getLsbD 1, cmdOvr := st.cmdOvr && !v.getLsbD 8 }

/-- IRQ_EN as the host reads it: DONE_IE in bit 0, the rest 0 (R26). -/
def irqEnWord (doneIe : Bool) : Word := 0#31 ++ BitVec.ofBool doneIe

/-- The level signal irq (R34, R220). -/
def State.irq (s : State) : Bool := s.doneIe && s.status.done

/-- The platform interrupt that is pending, if any (R220). -/
def State.irqLine (s : State) : Option Nat := if s.irq then some s.params.nteIrq else none

end Sys2Proof.Machine
end

