-- ==== Sys2Proof/Machine/Operands.lean ====
section
/-! DEFINITION. The register map, and how a register's words become an operand and a result becomes
words (spec/00_scope.md R8, spec/10_state.md R21, spec/20_memory.md R63, spec/30_encoding.md R84). -/

namespace Sys2Proof.Machine

/-- The number whose base-2^32 digits are the words, least significant first (R63). -/
def wordsToNat : DataReg → Nat
  | []      => 0
  | x :: xs => x.toNat + 2 ^ 32 * wordsToNat xs

/-- The `k` lowest words of a number: word `i` holds bits 32i+31 : 32i (R63). -/
def natToWords : Nat → Nat → DataReg
  | 0,     _ => []
  | k + 1, v => BitVec.ofNat 32 v :: natToWords k (v / 2 ^ 32)

/-- `sint_W` (R8). -/
def sintW (w : Nat) (u : BitVec w) : Int := u.toInt

/-- `enc_W` (R8), `v mod 2^W` as a pattern. R8 defines it only for `v` that fits W signed bits; outside
that range the model keeps the formula, which wraps (DESIGN CHOICE, log 26). A commit checks the range
before it encodes (R126), so only `ld` can meet it. -/
def encW (w : Nat) (v : Int) : BitVec w := BitVec.ofInt w v

/-- `fits_W` (R126): `v` is representable in W signed bits. -/
def fitsW (w : Nat) (v : Int) : Bool := fitsBits w v

/-- The W-bit pattern of a register (R63). -/
def patternOf (p : Params) (r : DataReg) : BitVec p.w := BitVec.ofNat p.w (wordsToNat r)

/-- The signed value of a register (R63, R84). -/
def valueOf (p : Params) (r : DataReg) : Int := sintW p.w (patternOf p r)

/-- The words of `enc_W(v)` (R8, R63). -/
def wordsOf (p : Params) (v : Int) : DataReg := natToWords p.nw (encW p.w v).toNat

/-- R[OPx]. -/
def State.opReg (s : State) : OpReg → DataReg
  | .opa => s.opa
  | .opb => s.opb
  | .opc => s.opc

/-- R[RESx]. -/
def State.resReg (s : State) : ResReg → DataReg
  | .res0 => s.res0
  | .res1 => s.res1
  | .res2 => s.res2

/-- R[OPx] <- r. -/
def State.setOpReg (s : State) (r : DataReg) : OpReg → State
  | .opa => { s with opa := r }
  | .opb => { s with opb := r }
  | .opc => { s with opc := r }

/-- `sint_W(R[OPx])`, the operand a command reads (R84). -/
def State.operand (s : State) (o : OpReg) : Int := valueOf s.params (s.opReg o)

/-- The snapshot that acceptance takes: the operands the command uses, in the working registers that
its rule names (R85, R123). -/
def State.snapshot (s : State) : Command → Work
  | .isprime => { s.work with n := s.operand .opa }
  | .egcd    => { s.work with a := s.operand .opa, m := s.operand .opb }
  | .modinv  => { s.work with a := s.operand .opa, m := s.operand .opb }
  | .modpow  => { s.work with b := s.operand .opa, e := s.operand .opb, m := s.operand .opc }

/-- The offset of a register's word 0 (R21). -/
def offset : RegName → Nat
  | .id        => 0x000
  | .param     => 0x004
  | .cmd       => 0x008
  | .status    => 0x00C
  | .irqEn     => 0x010
  | .op .opa   => 0x100
  | .op .opb   => 0x200
  | .op .opc   => 0x300
  | .res .res0 => 0x400
  | .res .res1 => 0x500
  | .res .res2 => 0x600

/-- What a word of the window is (R21, R66). -/
inductive Target where
  | id
  | param
  | cmd
  | status
  | irqEn
  | opWord (r : OpReg) (k : Nat)
  | resWord (r : ResReg) (k : Nat)
  /-- RAZ/WI (R66). -/
  | unmapped
  deriving DecidableEq, Repr

/-- The register map: the word at an aligned offset of the window, with `nw` words in each operand
and result register (R21, R66). -/
def target (nw o : Nat) : Target :=
  let k := o % 0x100 / 4
  if o < 0x100 then
    match o with
    | 0x000 => .id
    | 0x004 => .param
    | 0x008 => .cmd
    | 0x00C => .status
    | 0x010 => .irqEn
    | _     => .unmapped
  else if k < nw then
    match o / 0x100 with
    | 1 => .opWord .opa k
    | 2 => .opWord .opb k
    | 3 => .opWord .opc k
    | 4 => .resWord .res0 k
    | 5 => .resWord .res1 k
    | 6 => .resWord .res2 k
    | _ => .unmapped
  else .unmapped

end Sys2Proof.Machine
end

