-- ==== Sys2Proof/Machine/Ops.lean ====
section
/-! DEFINITION. The named operations that the meanings share: the window (spec/20_memory.md R64 to
R68, spec/41_command_interface.md R120, R121), the life of a command (R122 to R128), the primitive
port (spec/40_primitives.md) and reset (spec/70_reset_and_hazards.md R240, R241). -/

namespace Sys2Proof.Machine

/-! ### Phase -/

/-- PHASE = RUN. -/
def Phase.running : Phase → Bool
  | .idle  => false
  | .run _ => true

/-- CUR_OP of a step label (R31). -/
def StepLabel.command : StepLabel → Command
  | .isprime _ => .isprime
  | .egcd _    => .egcd
  | .modinv _  => .modinv
  | .modpow _  => .modpow

/-- The first step of a command's rule (R123). -/
def firstStep : Command → StepLabel
  | .isprime => .isprime .s0
  | .egcd    => .egcd .g0
  | .modinv  => .modinv .i0
  | .modpow  => .modpow .p0

/-! ### The register window -/

/-- The only legal access: all four byte lanes and an aligned address (R64). -/
def Access.legal (a : Access) : Bool := a.be == 0b1111#4 && a.addr.extractLsb' 0 2 == 0#2

/-- The data of a legal read (R120). -/
def readTarget (s : State) : Target → Word
  | .id          => Config.idWord
  | .param       => BitVec.ofNat 32 s.params.w
  | .cmd         => 0#32
  | .status      => s.status.word
  | .irqEn       => irqEnWord s.doneIe
  | .opWord r k  => (s.opReg r).getD k 0#32
  | .resWord r k => (s.resReg r).getD k 0#32
  | .unmapped    => 0#32

/-- A legal write to anything but CMD (R121). The read-only registers and the RAZ/WI offsets ignore
it; CMD's write is `commandWrite`. -/
def writeTarget (s : State) (v : Word) : Target → State
  | .id          => s
  | .param       => s
  | .cmd         => s
  | .status      => { s with status := s.status.writeOneToClear v }
  | .irqEn       => { s with doneIe := v.getLsbD 0 }
  | .opWord r k  => s.setOpReg ((s.opReg r).set k v) r
  | .resWord _ _ => s
  | .unmapped    => s

/-- The word that an access names (R60: the window is decoded by h_addr[11:0]). -/
def State.targetOf (s : State) (a : Access) : Target := target s.params.nw a.addr.toNat

/-! ### The life of a command -/

/-- Acceptance of a legal command while IDLE (R123). -/
def State.accept (s : State) (c : Command) : State :=
  { s with
    status := s.status.accepted c.op
    phase  := .run (firstStep c)
    work   := s.snapshot c }

/-- A CMD write while RUN: CMD_OVR and nothing else (R125). -/
def State.overrun (s : State) : State := { s with status := s.status.overrun }

/-- The write of a legal command word (R122): overrun in RUN, acceptance in IDLE. -/
def State.issue (s : State) (c : Command) : State :=
  if s.phase.running then s.overrun else s.accept c

/-- The write of an illegal command word (R122): overrun in RUN (R125), and in IDLE an immediate
completion with ILLEGAL_COMMAND (R124). -/
def State.issueIllegal (s : State) (v : Word) : State :=
  if s.phase.running then s.overrun else { s with status := s.status.illegal (cmdOp v) }

/-- TAKING AN EXCEPTION, which on this block is error completion (R127, R217): ERR is saved, LAST_OP
stays, no result register is written, PHASE goes to IDLE. -/
def State.raiseError (s : State) (e : ErrCode) : State :=
  { s with status := s.status.raised e, phase := .idle }

/-- The return from it: the host acknowledges the completion by writing 1 to DONE (R218). -/
def State.acknowledge (s : State) : State :=
  { s with status := s.status.writeOneToClear 0x2#32 }

/-- Successful completion, `commit(v0, v1, v2, noinv)`, with its range check (R126, R128). -/
def State.commit (s : State) (v0 v1 v2 : Int) (noinv : Bool) : State :=
  if fitsW s.params.w v0 && fitsW s.params.w v1 && fitsW s.params.w v2 then
    { s with
      res0   := wordsOf s.params v0
      res1   := wordsOf s.params v1
      res2   := wordsOf s.params v2
      status := s.status.committed noinv
      phase  := .idle }
  else s.raiseError .resultRange

/-! ### The primitive port -/

/-- ADD (R101). -/
def primAdd (x y : Int) : Int := x + y

/-- SUB (R102). -/
def primSub (x y : Int) : Int := x - y

/-- MUL (R103). -/
def primMul (x y : Int) : Int := x * y

/-- DIV, the floor quotient (R104); for `y ≤ 0` a free value (R106, log 10). -/
def primDiv (x y : Int) : Int := if 0 < y then Int.fdiv x y else Config.divNonPositive x y

/-- MOD, the floor remainder (R105); for `y ≤ 0` a free value (R106, log 10). -/
def primMod (x y : Int) : Int := if 0 < y then Int.fmod x y else Config.modNonPositive x y

/-- The exact result of a request (R100: it depends on the op and the operands only). -/
def Request.result (r : Request) : Int :=
  match r.op with
  | .add => primAdd r.x r.y
  | .sub => primSub r.x r.y
  | .mul => primMul r.x r.y
  | .div => primDiv r.x r.y
  | .mod => primMod r.x r.y

/-- The request as an instruction for the primitive unit. -/
def Request.instr (r : Request) : Instr := r.op.instr r.x r.y

/-- The request of a port instruction. -/
def requestOf : Instr → Option Request
  | .isprime => none
  | .egcd    => none
  | .modinv  => none
  | .modpow  => none
  | .add x y => some { op := .add, x := x, y := y }
  | .sub x y => some { op := .sub, x := x, y := y }
  | .mul x y => some { op := .mul, x := x, y := y }
  | .div x y => some { op := .div, x := x, y := y }
  | .mod x y => some { op := .mod, x := x, y := y }

/-- The primitive unit accepts the request that is offered: x_req_ready meets x_req_valid (R33,
log 28). -/
def State.acceptRequest (s : State) : State := { s with xacc := true }

/-- The primitive unit puts its response on the port (R107). -/
def State.respond (s : State) (v : Int) : State := { s with xrsp := some v }

/-! ### The local operations of the sequencer (R108) -/

/-- `bit0(x)`. -/
def bit0 (x : Int) : Int := x % 2

/-- `x >> 1`, integer halving. -/
def halve (x : Int) : Int := x / 2

/-- What a sequencer step comes to. -/
inductive Next where
  | goto (l : StepLabel)
  | call (op : PrimOp) (x y : Int)
  | commit (v0 v1 v2 : Int) (noinv : Bool)
  | raise (e : ErrCode)
  deriving DecidableEq, Repr

/-- A sequencer step: the working registers it leaves, and what it comes to. -/
structure Move where
  work : Work
  next : Next
  deriving DecidableEq, Repr

/-- The effect of a sequencer step: it goes on, issues a request, which is offered on the port from
then on (R33, R107), commits or raises. -/
def State.applyMove (s : State) (mv : Move) : State :=
  let s' := { s with work := mv.work }
  match mv.next with
  | .goto l               => { s' with phase := .run l }
  | .call op x y          => { s' with xpend := some { op := op, x := x, y := y }, xacc := false }
  | .commit v0 v1 v2 ninv => s'.commit v0 v1 v2 ninv
  | .raise e              => s'.raiseError e

/-- The sequencer takes the response: XPEND <- none (R107). -/
def State.takeResponse (s : State) : State := { s with xpend := none, xacc := false, xrsp := none }

/-! ### Reset -/

/-- Reset is asserted: the block goes to its reset values, a running command and an outstanding
request are abandoned (R240, R241); the environment is not the block's (log 16). -/
def State.assertReset (s : State) : State :=
  { State.resetWith s.params with rst := true, host := s.host, sched := s.sched }

/-- Reset is released: the block accepts accesses at once (R242). -/
def State.releaseReset (s : State) : State := { s with rst := false }

end Sys2Proof.Machine
end

