-- ==== Sys2Proof/Machine/Primitive.lean ====
section
/-! DEFINITION. The primitive-port rows of the opcode table: the primitive unit answers a request
(spec/40_primitives.md R100 to R107). The sequencer takes the answer in a later turn (log 8). -/

namespace Sys2Proof.Machine

/-- ADD: the response is `x + y`, exact (R101). -/
def execAdd (x y : Int) (s : State) : Out := .next (s.respond (primAdd x y))

/-- SUB: the response is `x - y`, exact (R102). -/
def execSub (x y : Int) (s : State) : Out := .next (s.respond (primSub x y))

/-- MUL: the response is `x * y`, exact (R103). -/
def execMul (x y : Int) (s : State) : Out := .next (s.respond (primMul x y))

/-- DIV: the response is the floor quotient (R104). -/
def execDiv (x y : Int) (s : State) : Out := .next (s.respond (primDiv x y))

/-- MOD: the response is the floor remainder (R105). -/
def execMod (x y : Int) (s : State) : Out := .next (s.respond (primMod x y))

end Sys2Proof.Machine
end

