-- ==== Sys2Proof/Machine/Euclid.lean ====
section
/-! DEFINITION. EGCD and MODINV, and the loop EGCD_CORE they share (spec/43_inverse.md R170 to
R175). -/

namespace Sys2Proof.Machine

/-- The CMD write of EGCD (R122, R123, R125, R172). -/
def execEgcd (s : State) : Out := .next (s.issue .egcd)

/-- The CMD write of MODINV (R122, R123, R125, R173). -/
def execModinv (s : State) : Out := .next (s.issue .modinv)

/-- What a step of EGCD_CORE comes to; `ret` returns `(w[r0], w[s0], w[t0])`, which stay in those
registers (log 20). -/
inductive CoreNext where
  | goto (l : CoreLabel)
  | call (op : PrimOp) (x y : Int)
  | ret
  deriving DecidableEq, Repr

/-- A step of R170 up to its CALL, or the whole of a step that has none. -/
def coreStart (l : CoreLabel) (w : Work) : Work × CoreNext :=
  match l with
  | .e0 =>
    ({ w with r0 := w.a, r1 := w.m, s0 := 1, s1 := 0, t0 := 0, t1 := 1 }, .goto .e1)
  | .e1 => if w.r1 = 0 then (w, .ret) else (w, .goto .e2)
  | .e2 => (w, .call .div w.r0 w.r1)
  | .e3 => (w, .call .mod w.r0 w.r1)
  | .e4 => (w, .call .mul w.q w.s1)
  | .e5 => (w, .call .sub w.s0 w.u)
  | .e6 => (w, .call .mul w.q w.t1)
  | .e7 => (w, .call .sub w.t0 w.u)

/-- The rest of a step of R170 once its CALL has returned `v`. E0 and E1 have no CALL (log 17). -/
def coreResume (l : CoreLabel) (v : Int) (w : Work) : Work × CoreNext :=
  match l with
  | .e0 => (w, .goto .e0)
  | .e1 => (w, .goto .e1)
  | .e2 => ({ w with q := v }, .goto .e3)
  | .e3 => ({ w with rem := v }, .goto .e4)
  | .e4 => ({ w with u := v }, .goto .e5)
  | .e5 => ({ w with u := v, s0 := w.s1, s1 := v }, .goto .e6)
  | .e6 => ({ w with u := v }, .goto .e7)
  | .e7 => ({ w with u := v, t0 := w.t1, t1 := v, r0 := w.r1, r1 := w.rem }, .goto .e1)

/-- A step of the loop inside a command: `inCore` places a label of the loop, and `after` is where
the command goes on when the loop returns. -/
def liftCore (inCore : CoreLabel → StepLabel) (after : StepLabel) (r : Work × CoreNext) : Move :=
  match r.2 with
  | .goto l      => ⟨r.1, .goto (inCore l)⟩
  | .call op x y => ⟨r.1, .call op x y⟩
  | .ret         => ⟨r.1, .goto after⟩

/-- The loop's labels inside EGCD: step G1 (R172). -/
def inG1 (l : CoreLabel) : StepLabel := .egcd (.g1 l)

/-- The loop's labels inside MODINV: step I1 (R173). -/
def inI1 (l : CoreLabel) : StepLabel := .modinv (.i1 l)

/-- A step of R172 up to its CALL, or the whole of a step that has none. -/
def egcdStart (l : EgcdLabel) (w : Work) : Move :=
  match l with
  | .g0 => if w.m < 0 then ⟨w, .raise .invalidModulus⟩ else ⟨w, .goto (inG1 .e0)⟩
  | .g1 e => liftCore inG1 (.egcd .g2) (coreStart e w)
  | .g2 => ⟨w, .commit w.r0 w.s0 w.t0 false⟩

/-- The rest of a step of R172 once its CALL has returned `v`. -/
def egcdResume (l : EgcdLabel) (v : Int) (w : Work) : Move :=
  match l with
  | .g0 => ⟨w, .goto (.egcd .g0)⟩
  | .g1 e => liftCore inG1 (.egcd .g2) (coreResume e v w)
  | .g2 => ⟨w, .goto (.egcd .g2)⟩

/-- A step of R173 up to its CALL, or the whole of a step that has none. The loop's `g` and `x` are
in `w[r0]` and `w[s0]` (log 20). -/
def modinvStart (l : ModinvLabel) (w : Work) : Move :=
  match l with
  | .i0 => if w.m ≤ 0 then ⟨w, .raise .invalidModulus⟩ else ⟨w, .goto (inI1 .e0)⟩
  | .i1 e => liftCore inI1 (.modinv .i2) (coreStart e w)
  | .i2 => if w.r0 ≠ 1 then ⟨w, .commit 0 0 0 true⟩ else ⟨w, .goto (.modinv .i3)⟩
  | .i3 => ⟨w, .call .mod w.s0 w.m⟩
  | .i4 => ⟨w, .call .add w.u w.m⟩
  | .i5 => ⟨w, .call .mod w.u w.m⟩
  | .i6 => ⟨w, .commit w.u 0 0 false⟩

/-- The rest of a step of R173 once its CALL has returned `v`. -/
def modinvResume (l : ModinvLabel) (v : Int) (w : Work) : Move :=
  match l with
  | .i0 => ⟨w, .goto (.modinv .i0)⟩
  | .i1 e => liftCore inI1 (.modinv .i2) (coreResume e v w)
  | .i2 => ⟨w, .goto (.modinv .i2)⟩
  | .i3 => ⟨{ w with u := v }, .goto (.modinv .i4)⟩
  | .i4 => ⟨{ w with u := v }, .goto (.modinv .i5)⟩
  | .i5 => ⟨{ w with u := v }, .goto (.modinv .i6)⟩
  | .i6 => ⟨w, .goto (.modinv .i6)⟩

end Sys2Proof.Machine
end

