-- ==== Sys2Proof/Machine/Isprime.lean ====
section
/-! DEFINITION. ISPRIME, the trial-division primality test (spec/42_primality.md R150 to R155). -/

namespace Sys2Proof.Machine

/-- The CMD write of ISPRIME (R122, R123, R125, R150). -/
def execIsprime (s : State) : Out := .next (s.issue .isprime)

/-- A step of R151 up to its CALL, or the whole of a step that has none. -/
def isprimeStart (l : IsprimeLabel) (w : Work) : Move :=
  match l with
  | .s0 =>
    if w.n ≤ 1 then ⟨w, .commit 0 0 0 false⟩
    else if w.n = 2 ∨ w.n = 3 then ⟨w, .commit 1 0 0 false⟩
    else if bit0 w.n = 0 then ⟨w, .commit 0 0 0 false⟩
    else ⟨w, .goto (.isprime .s1)⟩
  | .s1 => ⟨w, .call .mod w.n 3⟩
  | .s2 => ⟨w, .call .mul w.c w.c⟩
  | .s3 => ⟨w, .call .mod w.n w.c⟩
  | .s4 => ⟨w, .call .add w.c w.d⟩

/-- The rest of a step of R151 once its CALL has returned `v`. S0 has no CALL: a response there
answers nothing and is discarded (R241, log 17). -/
def isprimeResume (l : IsprimeLabel) (v : Int) (w : Work) : Move :=
  match l with
  | .s0 => ⟨w, .goto (.isprime .s0)⟩
  | .s1 =>
    let w := { w with rem := v }
    if w.rem = 0 then ⟨w, .commit 0 0 0 false⟩
    else ⟨{ w with c := 5, d := 2 }, .goto (.isprime .s2)⟩
  | .s2 =>
    let w := { w with t := v }
    if w.t > w.n then ⟨w, .commit 1 0 0 false⟩
    else ⟨w, .goto (.isprime .s3)⟩
  | .s3 =>
    let w := { w with rem := v }
    if w.rem = 0 then ⟨w, .commit 0 0 0 false⟩
    else ⟨w, .goto (.isprime .s4)⟩
  | .s4 => ⟨{ w with c := v, d := 6 - w.d }, .goto (.isprime .s2)⟩

end Sys2Proof.Machine
end

