-- ==== Sys2Proof/Machine/Modpow.lean ====
section
/-! DEFINITION. MODPOW, square-and-multiply modular exponentiation (spec/44_modpow.md R190 to
R195). -/

namespace Sys2Proof.Machine

/-- The CMD write of MODPOW (R122, R123, R125, R190). -/
def execModpow (s : State) : Out := .next (s.issue .modpow)

/-- A step of R191 up to its CALL, or the whole of a step that has none. -/
def modpowStart (l : ModpowLabel) (w : Work) : Move :=
  match l with
  | .p0 =>
    if w.m ≤ 0 then ⟨w, .raise .invalidModulus⟩
    else if w.e < 0 then ⟨w, .raise .negativeExponent⟩
    else if w.m = 1 then ⟨w, .commit 0 0 0 false⟩
    else ⟨w, .goto (.modpow .p1)⟩
  | .p1 => ⟨w, .call .mod w.b w.m⟩
  | .p2 =>
    if w.e = 0 then ⟨w, .commit w.res 0 0 false⟩
    else if bit0 w.e = 0 then ⟨w, .goto (.modpow .p5)⟩
    else ⟨w, .goto (.modpow .p3)⟩
  | .p3 => ⟨w, .call .mul w.res w.b⟩
  | .p4 => ⟨w, .call .mod w.t w.m⟩
  | .p5 => ⟨w, .call .mul w.b w.b⟩
  | .p6 => ⟨w, .call .mod w.t w.m⟩

/-- The rest of a step of R191 once its CALL has returned `v`. P0 and P2 have no CALL (log 17). -/
def modpowResume (l : ModpowLabel) (v : Int) (w : Work) : Move :=
  match l with
  | .p0 => ⟨w, .goto (.modpow .p0)⟩
  | .p1 => ⟨{ w with b := v, res := 1 }, .goto (.modpow .p2)⟩
  | .p2 => ⟨w, .goto (.modpow .p2)⟩
  | .p3 => ⟨{ w with t := v }, .goto (.modpow .p4)⟩
  | .p4 => ⟨{ w with res := v }, .goto (.modpow .p5)⟩
  | .p5 => ⟨{ w with t := v }, .goto (.modpow .p6)⟩
  | .p6 => ⟨{ w with b := v, e := halve w.e }, .goto (.modpow .p2)⟩

end Sys2Proof.Machine
end

