-- ==== Sys2Proof/Machine/Sequencer.lean ====
section
/-! DEFINITION. The sequencer: one turn of the running command's rule (spec/41_command_interface.md
R130, spec/40_primitives.md R107, spec/00_scope.md R11). -/

namespace Sys2Proof.Machine

/-- A step up to its CALL, or the whole of a step that has none. -/
def startStep (l : StepLabel) (w : Work) : Move :=
  match l with
  | .isprime l => isprimeStart l w
  | .egcd l    => egcdStart l w
  | .modinv l  => modinvStart l w
  | .modpow l  => modpowStart l w

/-- The rest of a step once its CALL has returned `v`. -/
def resumeStep (l : StepLabel) (v : Int) (w : Work) : Move :=
  match l with
  | .isprime l => isprimeResume l v w
  | .egcd l    => egcdResume l v w
  | .modinv l  => modinvResume l v w
  | .modpow l  => modpowResume l v w

/-- One turn of the sequencer. With a response on the port it takes it (XPEND <- none) and goes on;
with none it begins its next step. While IDLE it does nothing but discard a response (R241). -/
def State.sequencerTurn (s : State) : State :=
  match s.phase, s.xrsp with
  | .idle,  some _ => s.takeResponse
  | .idle,  none   => s
  | .run l, some v => s.takeResponse.applyMove (resumeStep l v s.work)
  | .run l, none   => s.applyMove (startStep l s.work)

end Sys2Proof.Machine
end

