-- ==== Sys2Proof/Machine/Bus.lean ====
section
/-! DEFINITION. A host access at the port (spec/20_memory.md R64 to R68, spec/41_command_interface.md
R120 to R122). `run` is the meaning of an instruction: Step.lean gives `exec`. -/

namespace Sys2Proof.Machine

/-- A legal write to CMD: a command word is decoded (R82) and handled by R122. -/
def commandWrite (run : Instr → State → Out) (v : Word) (s : State) : Out :=
  match decodeCmd v with
  | .instr i   => run i s
  | .illegal _ => .next (s.issueIllegal v)

/-- The block answers with ERROR (R65); a read of this kind returns 0. -/
def State.busError (s : State) (a : Access) : State :=
  { s with busReply := if a.we then .wrote .error else .read .error 0#32 }

/-- A host access. While reset is asserted it has no meaning (R242, log 6). An illegal access gets
ERROR and changes no state of the block (R65, log 5). A legal one is answered OKAY (R64, R66). -/
def portAccess (run : Instr → State → Out) (a : Access) (s : State) : Out :=
  if s.rst then .refused .accessDuringReset
  else if !a.legal then .next (s.busError a)
  else if a.we then
    let s' := { s with busReply := .wrote .okay }
    if s.targetOf a = .cmd then commandWrite run a.wdata s'
    else .next (writeTarget s' a.wdata (s.targetOf a))
  else .next { s with busReply := .read .okay (readTarget s (s.targetOf a)) }

end Sys2Proof.Machine
end

