-- ==== Sys2Proof/Machine/HostProgram.lean ====
section
/-! DEFINITION. The host as an agent: the access language of spec/30_encoding.md R90, the
pseudo-instructions of R91, and one line of a program as one turn (log 14). -/

namespace Sys2Proof.Machine

/-- The access that reaches the block for address `addr` on the host's side: the window is the 4 KiB
at NTE_BASE, and the block sees h_addr[11:0] (R60). All four byte lanes (R64). -/
def windowAccess (p : Params) (addr : Nat) (we : Bool) (v : Word) : Option Access :=
  if p.nteBase ≤ addr ∧ addr < p.nteBase + 4096 then
    some { we := we, addr := BitVec.ofNat 12 addr, be := 0b1111#4, wdata := v }
  else none

/-- `NTE_BASE + off(<reg>) + 4k` (R90). -/
def wordAddress (p : Params) (r : RegName) (k : Nat) : Nat := p.nteBase + offset r + 4 * k

/-- The access of `wr <reg>[k], <imm32>` (R90). -/
def wrAccess (p : Params) (r : RegName) (k : Nat) (imm : Word) : Option Access :=
  windowAccess p (wordAddress p r k) true imm

/-- The access of `rd <reg>[k]` (R90). The spec gives h_wdata a meaning for writes only; in a read the
model's host drives 0, which the block does not look at (DESIGN CHOICE, log 4). -/
def rdAccess (p : Params) (r : RegName) (k : Nat) : Option Access :=
  windowAccess p (wordAddress p r k) false 0#32

/-- The value of a variable. -/
def lookupVar (vars : List (Nat × Int)) (x : Nat) : Option Int :=
  match vars with
  | []           => none
  | (y, v) :: vs => if y = x then some v else lookupVar vs x

/-- Assign a variable: in its place if it has one, else at the end. -/
def assignVar (vars : List (Nat × Int)) (x : Nat) (v : Int) : List (Nat × Int) :=
  match vars with
  | []           => [(x, v)]
  | (y, u) :: vs => if y = x then (y, v) :: vs else (y, u) :: assignVar vs x v

/-- The values of some variables, if all are assigned. -/
def lookupVars (vars : List (Nat × Int)) : List Nat → Option (List Int)
  | []      => some []
  | x :: xs =>
    match lookupVar vars x, lookupVars vars xs with
    | some v, some vs => some (v :: vs)
    | _,      _       => none

/-- The line of a label. R90 does not say where `bne` goes if two lines have the label; the model takes
the first (DESIGN CHOICE, log 27). -/
def labelLine (l : Nat) : List HostStmt → Option Nat
  | []       => none
  | st :: ps => if st = .label l then some 0 else (labelLine l ps).map (· + 1)

/-- `<name> AND <mask>` of R90 on integers of any size (R8): the AND of the two's-complement patterns
without end. For a negative integer that is the model's reading (DEDUCED, log 14). -/
def intAnd : Int → Int → Int
  | .ofNat a,   .ofNat b   => .ofNat (a &&& b)
  | .ofNat a,   .negSucc b => .ofNat (a ^^^ (a &&& b))
  | .negSucc a, .ofNat b   => .ofNat (b ^^^ (b &&& a))
  | .negSucc a, .negSucc b => .negSucc (a ||| b)

/-- The host at a line. -/
def HostAgent.goto (h : HostAgent) (line : Nat) : HostAgent := { h with pc := line }

/-- The host with a variable assigned. -/
def HostAgent.assign (h : HostAgent) (x : Nat) (v : Int) : HostAgent :=
  { h with vars := assignVar h.vars x v }

/-- Put the host at a line. -/
def State.hostAt (s : State) (line : Nat) : State := { s with host := s.host.goto line }

/-- Assign a host variable. -/
def State.hostAssign (s : State) (x : Nat) (v : Int) : State := { s with host := s.host.assign x v }

/-- h_rdata of the latest access, as the host sees it. -/
def BusReply.data : BusReply → Word
  | .idle     => 0#32
  | .wrote _  => 0#32
  | .read _ d => d

/-- What a line that makes no access does to the host (R90, R91); `none` for a line that makes one.
The last line of `get` takes the low 32 bits of each variable and the low NW words; `asmGet` gives it NW
variables that `rd` assigned, each one word (log 14). -/
def quietLine (p : Params) (h : HostAgent) : HostStmt → Option (Except Fault HostAgent)
  | .wr _ _ _ => none
  | .rd _ _ _ => none
  | .label _  => some (.ok (h.goto (h.pc + 1)))
  | .bne x mask value l =>
    match lookupVar h.vars x with
    | none   => some (.error .undefinedVariable)
    | some v =>
      if intAnd v mask ≠ value then
        match labelLine l h.prog with
        | none      => some (.error .undefinedLabel)
        | some line => some (.ok (h.goto line))
      else some (.ok (h.goto (h.pc + 1)))
  | .sintOf x ts =>
    match lookupVars h.vars ts with
    | none    => some (.error .undefinedVariable)
    | some vs =>
      some (.ok ((h.goto (h.pc + 1)).assign x (valueOf p (vs.map (BitVec.ofInt 32)))))

/-- The access that a line makes, if it makes one in the window (R90). -/
def stmtAccess (p : Params) : HostStmt → Option Access
  | .wr r k imm  => wrAccess p r k imm
  | .rd r k _    => rdAccess p r k
  | .label _     => none
  | .bne _ _ _ _ => none
  | .sintOf _ _  => none

/-- What the host does with the answer to a line's access: `rd` assigns its variable (R90). -/
def afterAccess (st : HostStmt) (s : State) : State :=
  match st with
  | .wr _ _ _    => s
  | .rd _ _ x    => s.hostAssign x s.busReply.data.toNat
  | .label _     => s
  | .bne _ _ _ _ => s
  | .sintOf _ _  => s

/-- The meaning of one host line at which the host stands (R90). -/
def hostLine (run : Instr → State → Out) (st : HostStmt) (s : State) : Out :=
  match quietLine s.params s.host st with
  | some (.ok h)    => .next { s with host := h }
  | some (.error f) => .fault f
  | none =>
    match stmtAccess s.params st with
    | none   => .fault .outsideWindow
    | some a =>
      match portAccess run a (s.hostAt (s.host.pc + 1)) with
      | .next t    => .next (afterAccess st t)
      | .fault f   => .fault f
      | .refused r => .refused r

/-- One turn of the host; past the end of its program it does nothing. -/
def hostTurn (run : Instr → State → Out) (s : State) : Out :=
  match s.host.prog[s.host.pc]? with
  | none    => .next s
  | some st => hostLine run st s

/-! ### The end of a host program (R132) -/

/-- A turn of the host that makes no access, as a change of the host; `none` where its line makes an
access or has a fault. -/
def quietTurn (p : Params) (h : HostAgent) : Option HostAgent :=
  match h.prog[h.pc]? with
  | none    => some h
  | some st =>
    match quietLine p h st with
    | some (.ok h')   => some h'
    | some (.error _) => none
    | none            => none

/-- The host makes no access in its next `n` turns. -/
def quietFor (p : Params) : Nat → HostAgent → Bool
  | 0,     _ => true
  | n + 1, h =>
    match quietTurn p h with
    | none    => false
    | some h' => quietFor p n h'

/-- The program has ended: its last access has been performed, so that no line it still comes to makes
one, and PHASE = IDLE (R132). What is left may be labels, branches or the last line of a `get`, and a
loop of them without end (log 29). -/
def State.hostEnded (s : State) : Prop :=
  s.phase = .idle ∧ ∀ n, quietFor s.params n s.host = true

/-! ### Pseudo-instructions (R91) -/

/-- `ld <OPx>, <int v>`: the NW words of `enc_W(v)` in increasing order. For a `v` that does not fit W
signed bits R91 gives no expansion, because R8 defines no `enc_W(v)`; the model then loads the words of
`v mod 2^W` (DESIGN CHOICE, log 26). -/
def asmLd (p : Params) (r : OpReg) (v : Int) : List HostStmt :=
  (wordsOf p v).zipIdx.map fun wk => .wr (.op r) wk.2 wk.1

/-- `cmd <MNEMONIC>`. -/
def asmCmd (c : Command) : List HostStmt := [.wr .cmd 0 c.word]

/-- `wait`, with its label `l` and its variable `s`. -/
def asmWait (l s : Nat) : List HostStmt := [.label l, .rd .status 0 s, .bne s 0x3 0x2 l]

/-- `ack`. -/
def asmAck : List HostStmt := [.wr .status 0 0x2#32]

/-- `get <RESk> -> <name>`, with its variables `t_j` numbered from `t`. -/
def asmGet (p : Params) (r : ResReg) (x t : Nat) : List HostStmt :=
  (List.range p.nw).map (fun j => .rd (.res r) j (t + j)) ++
    [.sintOf x ((List.range p.nw).map (t + ·))]

/-- `isprime n`. -/
def asmIsprime (p : Params) (n : Int) : List HostStmt := asmLd p .opa n ++ asmCmd .isprime

/-- `egcd a, m`. -/
def asmEgcd (p : Params) (a m : Int) : List HostStmt :=
  asmLd p .opa a ++ asmLd p .opb m ++ asmCmd .egcd

/-- `modinv a, m`. -/
def asmModinv (p : Params) (a m : Int) : List HostStmt :=
  asmLd p .opa a ++ asmLd p .opb m ++ asmCmd .modinv

/-- `modpow b, e, m`. -/
def asmModpow (p : Params) (b e m : Int) : List HostStmt :=
  asmLd p .opa b ++ asmLd p .opb e ++ asmLd p .opc m ++ asmCmd .modpow

end Sys2Proof.Machine
end

