-- ==== Sys2Proof/Machine/Turns.lean ====
section
/-! DEFINITION. Which agent moves, and what its move is (spec/10_state.md R20, spec/20_memory.md
R70, spec/41_command_interface.md R130, R131). `run` is the meaning of an instruction: Step.lean
gives `exec`. -/

namespace Sys2Proof.Machine

/-- The primitive unit or the sequencer has something to do. -/
def State.engineReady (s : State) : Bool :=
  !s.rst && (s.phase.running || s.xpend.isSome || s.xrsp.isSome)

/-- The next turn. The schedule says it; past its end the engine moves while it can, which is the
fairness of R130, and then the host (log 7). -/
def State.nextTurn (s : State) : Turn :=
  match s.sched with
  | t :: _ => t
  | []     => if s.engineReady then .engine else .host

/-- The state with that turn taken off the schedule. -/
def State.popTurn (s : State) : State := { s with sched := s.sched.tail }

/-- The engine's move. A request with no response is the primitive unit's: it accepts the request that
is offered (R33, log 28), or runs the one it has accepted (R107). Everything else is the sequencer's.
In reset nothing moves (R240). -/
def engineTurn (run : Instr → State → Out) (s : State) : Out :=
  if s.rst then .next s
  else
    match s.xpend, s.xrsp with
    | some r, none => if s.xacc then run r.instr s else .next s.acceptRequest
    | _,      _    => .next s.sequencerTurn

/-- The move of a turn. A response that arrives after a reset abandoned its request is discarded
(R241). -/
def takeTurn (run : Instr → State → Out) (t : Turn) (s : State) : Out :=
  match t with
  | .engine         => engineTurn run s
  | .host           => hostTurn run s
  | .access a       => portAccess run a s
  | .assertReset    => .next s.assertReset
  | .releaseReset   => .next s.releaseReset
  | .lateResponse _ => .next s

/-- One step of the machine. -/
def stepWith (run : Instr → State → Out) (s : State) : Out := takeTurn run s.nextTurn s.popTurn

/-- Place an instruction where the machine takes its next one (log 13): a command word as the next
host access, a write to CMD; a port request as the outstanding request that the primitive unit has
accepted, with the engine to move. -/
def placeInstr (s : State) (nbits w : Nat) : State :=
  if nbits = 32 then
    { s with
      rst   := false
      sched := .access { we := true, addr := 0x008#12, be := 0b1111#4, wdata := BitVec.ofNat 32 w }
        :: s.sched }
  else
    let r := (decodeTableWord nbits w).bind requestOf
    { s with
      rst   := false
      xpend := r
      xacc  := r.isSome
      xrsp  := none
      sched := .engine :: s.sched }

end Sys2Proof.Machine
end

