-- ==== Sys2Proof/Machine/Ports.lean ====
section
/-! DEFINITION. The signals of one NTE instance (spec/10_state.md R33) as views of the state. An input
is what its agent drives in the coming turn, and a response also stands on the port from the turn that
answers it until the sequencer takes it (log 8). A signal that carries nothing is `none`. `clk` has no
view (log 19); `irq` is `State.irq`. -/

namespace Sys2Proof.Machine

/-! ### Reset -/

/-- The level of the pin `rst`, by the polarity of RST_STYLE (R33, R242). -/
def State.rstPin (s : State) : Bool :=
  match s.params.rstStyle.polarity with
  | .activeHigh => s.rst
  | .activeLow  => !s.rst

/-! ### The host port -/

/-- h_we, h_addr, h_be and h_wdata of the coming turn, if it is a host access. -/
def State.hAccess (s : State) : Option Access :=
  match s.nextTurn with
  | .access a       => some a
  | .host           => s.host.prog[s.host.pc]?.bind (stmtAccess s.params)
  | .engine         => none
  | .assertReset    => none
  | .releaseReset   => none
  | .lateResponse _ => none

/-- h_req. -/
def State.hReq (s : State) : Bool := s.hAccess.isSome

/-- The value of h_resp: 0 = OKAY, 1 = ERROR. -/
def Resp.bit : Resp → BitVec 1
  | .okay  => 0#1
  | .error => 1#1

/-- h_resp, the answer to the latest access. -/
def BusReply.hResp : BusReply → Option (BitVec 1)
  | .idle     => none
  | .wrote r  => some r.bit
  | .read r _ => some r.bit

/-- h_rdata, the data of the latest access if that was a read. -/
def BusReply.hRdata : BusReply → Option Word
  | .idle     => none
  | .wrote _  => none
  | .read _ d => some d

/-! ### The primitive port -/

/-- x_req_valid: a request is offered and not accepted yet (log 28). -/
def State.xReqValid (s : State) : Bool := s.xpend.isSome && !s.xacc

/-- x_req_ready: the primitive unit accepts the offered request in the coming turn (log 28). -/
def State.xReqReady (s : State) : Bool :=
  s.nextTurn == .engine && !s.rst && s.xReqValid && s.xrsp.isNone

/-- x_req_op, while x_req_valid. -/
def State.xReqOp (s : State) : Option (BitVec 3) :=
  if s.xReqValid then s.xpend.map fun r => r.op.code else none

/-- x_req_x, while x_req_valid, on the least port width (log 11). -/
def State.xReqX (s : State) : Option (BitVec s.params.ww) :=
  if s.xReqValid then s.xpend.map fun r => BitVec.ofInt s.params.ww r.x else none

/-- x_req_y, while x_req_valid, on the least port width (log 11). -/
def State.xReqY (s : State) : Option (BitVec s.params.ww) :=
  if s.xReqValid then s.xpend.map fun r => BitVec.ofInt s.params.ww r.y else none

/-- The response on the port: a late one that the coming turn brings (R32, R241), or the one that the
sequencer has not taken yet. Both at once cannot be told apart on one port; the coming one is shown
(log 17). -/
def State.xRsp (s : State) : Option Int :=
  match s.nextTurn with
  | .lateResponse v => some v
  | .engine         => s.xrsp
  | .host           => s.xrsp
  | .access _       => s.xrsp
  | .assertReset    => s.xrsp
  | .releaseReset   => s.xrsp

/-- x_rsp_valid: a primitive response is present. -/
def State.xRspValid (s : State) : Bool := s.xRsp.isSome

/-- x_rsp_data, while x_rsp_valid, on the least port width (log 11). -/
def State.xRspData (s : State) : Option (BitVec s.params.ww) :=
  s.xRsp.map (BitVec.ofInt s.params.ww)

end Sys2Proof.Machine
end

