-- ==== Sys2Proof/Safety.lean ====
section
/-! DEFINITION. The terms that claims use: runs, the port trace, the machine invariant, and what a
safe run is. -/

namespace Sys2Proof.Machine

/-! ### Runs -/

/-- `n` steps lead from `s` to `t`. -/
def Reaches : Nat → State → State → Prop
  | 0,     s, t => s = t
  | n + 1, s, t => ∃ u, step s = .next u ∧ Reaches n u t

/-- `n` steps lead from `s` to `t`, which is the first state on the way in which PHASE = IDLE: the
end of the running command (R132). -/
def RunsTo (n : Nat) (s t : State) : Prop :=
  Reaches n s t ∧ t.phase = .idle ∧ ∀ k < n, ∀ u, Reaches k s u → u.phase.running = true

/-- The host's program ends after `n` steps from `s`, and `t` is its final state: the first state on the
way in which it has ended (R132). -/
def EndsIn (n : Nat) (s t : State) : Prop :=
  Reaches n s t ∧ t.hostEnded ∧ ∀ k < n, ∀ u, Reaches k s u → ¬ u.hostEnded

/-- The request that a step from `s` to `t` issues, if any (R107). -/
def issued (s t : State) : List Request := if s.xpend.isNone then t.xpend.toList else []

/-- The requests that `n` steps from `s` issue, in order: the observable port transactions (R11). -/
def portTrace : Nat → State → List Request
  | 0,     _ => []
  | n + 1, s =>
    match step s with
    | .next t    => issued s t ++ portTrace n t
    | .fault _   => []
    | .refused _ => []

/-! ### Bus errors (R65, log 5) -/

/-- The latest access was answered with ERROR. -/
def BusReply.isError : BusReply → Bool
  | .idle     => false
  | .wrote r  => r == .error
  | .read r _ => r == .error

/-- No access of the first `n` steps from `s` is illegal: what R65 requires of a program under proof.
A run that stops with a fault or a refusal is not safe either. -/
def SafeRun : Nat → State → Prop
  | 0,     s => s.busReply.isError = false
  | n + 1, s => s.busReply.isError = false ∧ ∃ t, step s = .next t ∧ SafeRun n t

/-! ### The reference definition of the extended Euclidean algorithm -/

/-- `egcd(a, b) = (g, x, y)` by D0's recursion (R171), with the number `L` of recursive calls, which
is the number of passes of the loop (R176). -/
inductive EgcdRef : Int → Int → Int → Int → Int → Nat → Prop where
  | base (a : Int) : EgcdRef a 0 a 1 0 0
  | recurse {a b g x y : Int} {L : Nat} (hb : 0 < b) (h : EgcdRef b (Int.fmod a b) g x y L) :
      EgcdRef a b g y (x - Int.fdiv a b * y) (L + 1)

/-! ### The invariant -/

/-- What the labels of EGCD_CORE may rely on. The equations are the invariants of R170, carried
through the pass; `0 < r1` is what R106 needs. -/
def CoreOk (w : Work) : CoreLabel → Prop
  | .e0 => True
  | .e1 => 0 ≤ w.r1 ∧ w.r0 = w.a * w.s0 + w.m * w.t0 ∧ w.r1 = w.a * w.s1 + w.m * w.t1
  | .e2 => 0 < w.r1 ∧ w.r0 = w.a * w.s0 + w.m * w.t0 ∧ w.r1 = w.a * w.s1 + w.m * w.t1
  | .e3 => 0 < w.r1 ∧ w.r0 = w.a * w.s0 + w.m * w.t0 ∧ w.r1 = w.a * w.s1 + w.m * w.t1 ∧
      w.q = Int.fdiv w.r0 w.r1
  | .e4 => 0 < w.r1 ∧ w.r0 = w.a * w.s0 + w.m * w.t0 ∧ w.r1 = w.a * w.s1 + w.m * w.t1 ∧
      0 ≤ w.rem ∧ w.rem < w.r1 ∧ w.rem = w.r0 - w.q * w.r1
  | .e5 => 0 < w.r1 ∧ w.r0 = w.a * w.s0 + w.m * w.t0 ∧ w.r1 = w.a * w.s1 + w.m * w.t1 ∧
      0 ≤ w.rem ∧ w.rem < w.r1 ∧ w.rem = w.r0 - w.q * w.r1 ∧ w.u = w.q * w.s1
  | .e6 => 0 < w.r1 ∧ w.r1 = w.a * w.s0 + w.m * w.t1 ∧
      0 ≤ w.rem ∧ w.rem < w.r1 ∧ w.rem = w.a * w.s1 + w.m * (w.t0 - w.q * w.t1)
  | .e7 => 0 < w.r1 ∧ w.r1 = w.a * w.s0 + w.m * w.t1 ∧
      0 ≤ w.rem ∧ w.rem < w.r1 ∧ w.rem = w.a * w.s1 + w.m * (w.t0 - w.u)

/-- What a step label may rely on. -/
def LabelOk (w : Work) : StepLabel → Prop
  | .isprime .s0 => True
  | .isprime .s1 => 3 < w.n
  | .isprime .s2 => 3 < w.n ∧ 5 ≤ w.c ∧ (w.d = 2 ∨ w.d = 4)
  | .isprime .s3 => 3 < w.n ∧ 5 ≤ w.c ∧ (w.d = 2 ∨ w.d = 4) ∧ w.c * w.c ≤ w.n
  | .isprime .s4 => 3 < w.n ∧ 5 ≤ w.c ∧ (w.d = 2 ∨ w.d = 4) ∧ w.c * w.c ≤ w.n
  | .egcd .g0 => True
  | .egcd (.g1 l) => 0 ≤ w.m ∧ CoreOk w l
  | .egcd .g2 => 0 ≤ w.m ∧ w.r0 = w.a * w.s0 + w.m * w.t0
  | .modinv .i0 => True
  | .modinv (.i1 l) => 0 < w.m ∧ CoreOk w l
  | .modinv .i2 => 0 < w.m ∧ w.r0 = w.a * w.s0 + w.m * w.t0
  | .modinv .i3 => 0 < w.m ∧ 1 = w.a * w.s0 + w.m * w.t0
  | .modinv .i4 => 0 < w.m ∧ 0 ≤ w.u ∧ w.u < w.m ∧ w.a * w.u % w.m = 1 % w.m
  | .modinv .i5 => 0 < w.m ∧ w.m ≤ w.u ∧ w.u < 2 * w.m ∧ w.a * w.u % w.m = 1 % w.m
  | .modinv .i6 => 0 < w.m ∧ 0 ≤ w.u ∧ w.u < w.m ∧ w.a * w.u % w.m = 1 % w.m
  | .modpow .p0 => True
  | .modpow .p1 => 1 < w.m ∧ 0 ≤ w.e
  | .modpow .p2 => 1 < w.m ∧ 0 ≤ w.e ∧ 0 ≤ w.b ∧ w.b < w.m ∧ 0 ≤ w.res ∧ w.res < w.m
  | .modpow .p3 => 1 < w.m ∧ 0 < w.e ∧ 0 ≤ w.b ∧ w.b < w.m ∧ 0 ≤ w.res ∧ w.res < w.m
  | .modpow .p4 => 1 < w.m ∧ 0 < w.e ∧ 0 ≤ w.b ∧ w.b < w.m ∧ w.t = w.res * w.b
  | .modpow .p5 => 1 < w.m ∧ 0 < w.e ∧ 0 ≤ w.b ∧ w.b < w.m ∧ 0 ≤ w.res ∧ w.res < w.m
  | .modpow .p6 => 1 < w.m ∧ 0 < w.e ∧ w.t = w.b * w.b ∧ 0 ≤ w.res ∧ w.res < w.m

/-- The invariant of the machine. -/
structure Inv (s : State) : Prop where
  /-- R6 -/
  params   : s.params.Wf
  /-- R22, R23, R63: each data register has NW words. -/
  lengths  : s.opa.length = s.params.nw ∧ s.opb.length = s.params.nw ∧
    s.opc.length = s.params.nw ∧ s.res0.length = s.params.nw ∧ s.res1.length = s.params.nw ∧
    s.res2.length = s.params.nw
  /-- R31: the host sees PHASE = RUN as BUSY = 1. -/
  busy     : s.status.busy = s.phase.running
  /-- R25: while BUSY = 1, DONE = 0, NOINV = 0 and ERR = 0. -/
  clean    : s.phase.running = true →
    s.status.done = false ∧ s.status.noinv = false ∧ s.status.err = .none
  /-- R123: LAST_OP is the OP of the running command. -/
  lastOp   : ∀ l, s.phase = .run l → s.status.lastOp = l.command.op
  /-- R32, R107: while IDLE no request is outstanding. -/
  idlePort : s.phase = .idle → s.xpend = none ∧ s.xrsp = none
  /-- R107: an outstanding request is the one that the current step makes. -/
  request  : ∀ l r, s.phase = .run l → s.xpend = some r →
    startStep l s.work = ⟨s.work, .call r.op r.x r.y⟩
  /-- R33: only a request that stands on the port has been accepted. -/
  accepted : s.xacc = true → ∃ r, s.xpend = some r
  /-- R100, R107: a response is the exact result of the outstanding request, which was accepted. -/
  response : ∀ v, s.xrsp = some v → s.xacc = true ∧ ∃ r, s.xpend = some r ∧ v = r.result
  /-- R106, R170, R174, R193 -/
  label    : ∀ l, s.phase = .run l → LabelOk s.work l
  /-- R240: while reset is asserted the block is at its reset values. -/
  inReset  : s.rst = true → s.phase = .idle ∧ s.status = Status.atReset ∧ s.doneIe = false

/-! ### Ends of a command, as states -/

/-- `s` after a command that committed `v0`, `v1`, `v2` and left the working registers `w`: the three
results, STATUS and the working registers change, and nothing else (R86, R126). -/
def State.completed (s : State) (c : Command) (w : Work) (v0 v1 v2 : Int) (noinv : Bool) : State :=
  { s with
    work   := w
    res0   := wordsOf s.params v0
    res1   := wordsOf s.params v1
    res2   := wordsOf s.params v2
    status := { s.status with
      busy := false, done := true, noinv := noinv, err := .none, lastOp := c.op } }

/-- `s` after a command that raised `e` and left the working registers `w`: STATUS and the working
registers change, and nothing else; no result register is written (R127). -/
def State.failed (s : State) (c : Command) (w : Work) (e : ErrCode) : State :=
  { s with
    work   := w
    status := { s.status with
      busy := false, done := true, noinv := false, err := e, lastOp := c.op } }

/-- The operand registers that a command reads (R85). -/
def usedOperands : Command → List OpReg
  | .isprime => [.opa]
  | .egcd    => [.opa, .opb]
  | .modinv  => [.opa, .opb]
  | .modpow  => [.opa, .opb, .opc]

/-- How many candidates from 5 to `b` ISPRIME can test: the integers coprime to 6 (R152). -/
def candidates (b : Nat) : Nat := ((List.range (b + 1)).filter fun c => 5 ≤ c && Nat.gcd c 6 == 1).length

/-- The number of port transactions of ISPRIME for the operand `n` (R154). -/
def isprimeCalls (n : Int) : Nat :=
  if n ≤ 3 ∨ n % 2 = 0 then 0
  else if n % 3 = 0 then 1
  else if n.toNat.minFac = n.toNat then 3 * candidates n.toNat.sqrt + 2
  else 3 * candidates n.toNat.minFac

/-- The number of one bits of `e` (R194). -/
def popcount (e : Nat) : Nat := (Nat.bits e).count true

/-- The block is idle and can take a command, and no turn is scheduled: what follows is the engine's
moves until the command ends (log 7). -/
structure Ready (s : State) : Prop where
  inv   : Inv s
  rst   : s.rst = false
  idle  : s.phase = .idle
  sched : s.sched = []

end Sys2Proof.Machine
end

