-- ==== Sys2Proof/Certificates/Slice0/Obligations.lean ====
section
/-! DEFINITION. The statements for the provers. Each docstring names the rules it formalises. -/

open Sys2Proof Sys2Proof.Machine

/-! ### Encoding -/

/-- R80 to R83: the decoder gives back every instruction that has an encoding, on a port of any
width. -/
def Obligations.DecodeOfEncodeIsTheInstruction : Prop :=
  ∀ (ww : Nat) (i : Instr), 0 < ww → i.wellFormed ww = true → decode (encode ww i) = .instr i

/-- R82: a word is legal exactly when RSV = 0 and OP is 1 to 4, and the decoder compares all 32
bits. -/
def Obligations.LegalCommandWordsAreExactlyFour : Prop :=
  (∀ v : Word, (∃ i, decodeCmd v = .instr i) ↔
    v.extractLsb' 4 28 = 0#28 ∧ (v.extractLsb' 0 4 = 1#4 ∨ v.extractLsb' 0 4 = 2#4 ∨
      v.extractLsb' 0 4 = 3#4 ∨ v.extractLsb' 0 4 = 4#4)) ∧
  ∀ (v : Word) (i : Instr), decodeCmd v = .instr i ↔
    (i = .isprime ∧ v = 1#32) ∨ (i = .egcd ∧ v = 2#32) ∨ (i = .modinv ∧ v = 3#32) ∨
      (i = .modpow ∧ v = 4#32)

/-- R83: the fields of a request on the port are the op code and the two's-complement patterns of
both operands, and the decoder reads them back with their signs. The width is the model's choice
(log 11). -/
def Obligations.PortVectorCarriesOpAndOperands : Prop :=
  ∀ (ww : Nat) (op : PrimOp) (x y : Int), 0 < ww → fitsBits ww x = true → fitsBits ww y = true →
    (encodeReq ww op x y).extractLsb' (ww + ww) 3 = op.code ∧
    ((encodeReq ww op x y).extractLsb' ww ww).toInt = x ∧
    ((encodeReq ww op x y).extractLsb' 0 ww).toInt = y

/-- R81, R82, R83: a few words, written out from the spec's tables. -/
def Obligations.SampleWordsDecode : Prop :=
  decodeCmd 0x00000001#32 = .instr .isprime ∧ decodeCmd 0x00000002#32 = .instr .egcd ∧
  decodeCmd 0x00000003#32 = .instr .modinv ∧ decodeCmd 0x00000004#32 = .instr .modpow ∧
  decodeCmd 0x00000000#32 = .illegal .reservedOp ∧ decodeCmd 0x80000004#32 = .illegal .reservedBits ∧
  decodeReq (ww := 4) 0b00000100010#11 = .instr (.add 2 2) ∧
  decodeReq (ww := 4) 0b10011010101#11 = .instr (.mod (-3) 5)

/-! ### A step runs the decoded instruction -/

/-- R80, R122: a legal write of a word that decodes runs its instruction. The turn leaves the
schedule (the model's field, log 7) and the bus answers OKAY (log 4). -/
def Obligations.StepRunsTheWrittenCommand : Prop :=
  ∀ (s : State) (a : Access) (rest : List Turn) (i : Instr),
    s.sched = .access a :: rest → s.rst = false → a.be = 0b1111#4 → a.addr = 0x008#12 →
    a.we = true → decodeCmd a.wdata = .instr i →
    step s = exec i { s with sched := rest, busReply := .wrote .okay }

/-- R90, R91: `cmd <MNEMONIC>` in the host's program runs the command, and the host moves to its next
line. The host as an agent is log 14. -/
def Obligations.StepRunsTheHostsCommandLine : Prop :=
  ∀ (s : State) (c : Command), s.params.Wf → s.rst = false → s.nextTurn = .host →
    s.host.prog[s.host.pc]? = some (.wr .cmd 0 c.word) →
    step s = exec c.instr
      { s with
        sched    := s.sched.tail
        host     := { s.host with pc := s.host.pc + 1 }
        busReply := .wrote .okay }

/-- R100, R107: an outstanding request that the primitive unit has accepted and not answered is run
when the engine moves. That the handshake and the answer are turns of their own is log 8 and log 28. -/
def Obligations.StepRunsTheOutstandingRequest : Prop :=
  ∀ (s : State) (r : Request), s.rst = false → s.nextTurn = .engine → s.xpend = some r →
    s.xacc = true → s.xrsp = none → step s = exec r.instr { s with sched := s.sched.tail }

/-! ### The primitive unit -/

/-- R33: a request that is offered (x_req_valid, with its op code and operands on the port) is accepted
when x_req_ready meets it, and is offered no longer. The handshake as a turn of the engine is log 28,
the port's width log 11. -/
def Obligations.HandshakeAcceptsTheOfferedRequest : Prop :=
  ∀ (s : State) (r : Request), s.rst = false → s.xpend = some r → s.xacc = false → s.xrsp = none →
    s.xReqValid = true ∧ s.xReqOp = some r.op.code ∧
    s.xReqX = some (BitVec.ofInt s.params.ww r.x) ∧ s.xReqY = some (BitVec.ofInt s.params.ww r.y) ∧
    (s.xReqReady = true ↔ s.nextTurn = .engine) ∧
    (s.nextTurn = .engine → ∃ t, step s = .next t ∧
      t = { s with sched := s.sched.tail, xacc := true } ∧ t.xReqValid = false)

/-- R33, R107: while a request stands on the port with no response, no step withdraws or changes it and
the sequencer does nothing, whichever agent moves; only a reset abandons it. An offered request stays
offered until x_req_ready (log 28). -/
def Obligations.OutstandingRequestIsHeld : Prop :=
  ∀ (s t : State) (r : Request), Inv s → step s = .next t → s.xpend = some r → s.xrsp = none →
    (s.nextTurn = .assertReset ∧ t.xpend = none) ∨
    (t.xpend = some r ∧ t.phase = s.phase ∧ t.work = s.work ∧
      t.xacc = (s.xacc || s.xReqReady) ∧ (t.xrsp.isSome = true → s.xacc = true))

/-- R101, R102, R103: ADD, SUB and MUL answer the exact result on the response port and change
nothing else. -/
def Obligations.AddSubMulAnswerExactly : Prop :=
  ∀ (s : State) (x y : Int),
    exec (.add x y) s = .next { s with xrsp := some (x + y) } ∧
    exec (.sub x y) s = .next { s with xrsp := some (x - y) } ∧
    exec (.mul x y) s = .next { s with xrsp := some (x * y) }

/-- R104, R9: DIV answers the greatest `q` with `q * y ≤ x`, and changes nothing else. -/
def Obligations.DivAnswersTheFloorQuotient : Prop :=
  ∀ (s : State) (x y : Int), 0 < y →
    ∃ q : Int, exec (.div x y) s = .next { s with xrsp := some q } ∧ q * y ≤ x ∧
      ∀ q' : Int, q' * y ≤ x → q' ≤ q

/-- R105, R9: MOD answers the remainder in `[0, y)` whatever the sign of `x`, and changes nothing
else. -/
def Obligations.ModAnswersTheRemainderInRange : Prop :=
  ∀ (s : State) (x y : Int), 0 < y →
    ∃ r q : Int, exec (.mod x y) s = .next { s with xrsp := some r } ∧ 0 ≤ r ∧ r < y ∧
      x = y * q + r

/-- R107: exactly one response per request, for every divisor. For `y ≤ 0`, which R106 says is never
issued, the value is the model's free value (log 10); this holds whatever it is. -/
def Obligations.DivAndModAnswerForEveryDivisor : Prop :=
  ∀ (s : State) (x y : Int),
    (∃ v, exec (.div x y) s = .next { s with xrsp := some v }) ∧
    (∃ v, exec (.mod x y) s = .next { s with xrsp := some v })

/-! ### The life of a command -/

/-- R123, R84, R85: a command that arrives while IDLE is accepted: its operands are snapshotted,
STATUS and the sequencer change as the rule says, and nothing else does. -/
def Obligations.CommandWhileIdleIsAccepted : Prop :=
  ∀ s : State, s.phase = .idle →
    exec .isprime s = .next { s with
      work   := { s.work with n := valueOf s.params s.opa }
      status := { s.status with
        done := false, noinv := false, err := .none, lastOp := 1#4, busy := true }
      phase  := .run (.isprime .s0) } ∧
    exec .egcd s = .next { s with
      work   := { s.work with a := valueOf s.params s.opa, m := valueOf s.params s.opb }
      status := { s.status with
        done := false, noinv := false, err := .none, lastOp := 2#4, busy := true }
      phase  := .run (.egcd .g0) } ∧
    exec .modinv s = .next { s with
      work   := { s.work with a := valueOf s.params s.opa, m := valueOf s.params s.opb }
      status := { s.status with
        done := false, noinv := false, err := .none, lastOp := 3#4, busy := true }
      phase  := .run (.modinv .i0) } ∧
    exec .modpow s = .next { s with
      work   := { s.work with
        b := valueOf s.params s.opa, e := valueOf s.params s.opb, m := valueOf s.params s.opc }
      status := { s.status with
        done := false, noinv := false, err := .none, lastOp := 4#4, busy := true }
      phase  := .run (.modpow .p0) }

/-- R125: a CMD write while RUN, legal or not, sets CMD_OVR and does nothing else. -/
def Obligations.CommandWriteWhileBusyOnlySetsOverrun : Prop :=
  ∀ (s : State) (v : Word) (l : StepLabel), s.phase = .run l →
    commandWrite exec v s = .next { s with status := { s.status with cmdOvr := true } } ∧
    ∀ c : Command, exec c.instr s = .next { s with status := { s.status with cmdOvr := true } }

/-- R124: an illegal word while IDLE completes at once, with ERR = 2 and LAST_OP = `v[3:0]`, with no
snapshot, no request and no result; irq rises if DONE_IE = 1. -/
def Obligations.IllegalWordCompletesAtOnce : Prop :=
  ∀ (s : State) (v : Word), s.phase = .idle →
    (v.extractLsb' 4 28 ≠ 0#28 ∨ v.extractLsb' 0 4 = 0#4 ∨ 5#4 ≤ v.extractLsb' 0 4) →
    ∃ t, commandWrite exec v s = .next t ∧
      t = { s with status := { s.status with
        noinv := false, lastOp := v.extractLsb' 0 4, err := .illegalCommand, done := true } } ∧
      (t.status.word.extractLsb' 4 4 = 2#4) ∧ t.irq = s.doneIe

/-- R126, R127, R128, R8: a commit of values that fit writes all three result registers, which then
read back as those values, and completes; one value that does not fit writes none and completes with
ERR = 4. -/
def Obligations.CommittedResultsReadBack : Prop :=
  ∀ (s : State) (v0 v1 v2 : Int) (noinv : Bool), s.params.Wf →
    let fits := fun v : Int => -(2 : Int) ^ (s.params.w - 1) ≤ v ∧ v ≤ 2 ^ (s.params.w - 1) - 1
    let t := s.commit v0 v1 v2 noinv
    (fits v0 ∧ fits v1 ∧ fits v2 →
      valueOf s.params t.res0 = v0 ∧ valueOf s.params t.res1 = v1 ∧ valueOf s.params t.res2 = v2 ∧
      t = { s with
        res0 := t.res0, res1 := t.res1, res2 := t.res2, phase := .idle
        status := { s.status with noinv := noinv, err := .none, busy := false, done := true } }) ∧
    (¬ (fits v0 ∧ fits v1 ∧ fits v2) →
      t = { s with
        phase  := .idle
        status := { s.status with err := .resultRange, noinv := false, busy := false, done := true } })

/-- R23, R126, R131, R246: the result registers change only where a running command completes without
an error, or at reset. -/
def Obligations.ResultsChangeOnlyAtCompletion : Prop :=
  ∀ s t : State, step s = .next t →
    (t.res0 ≠ s.res0 ∨ t.res1 ≠ s.res1 ∨ t.res2 ≠ s.res2) →
    (s.nextTurn = .engine ∧ s.phase.running = true ∧ t.phase = .idle ∧ t.status.err = .none ∧
      t.status.done = true ∧ t.status.busy = false) ∨ s.nextTurn = .assertReset

/-- R22, R61, R72: a turn of the engine touches the sequencer, the port, the results and STATUS only;
of STATUS it leaves CMD_OVR and LAST_OP. -/
def Obligations.EngineTurnFrame : Prop :=
  ∀ s t : State, s.nextTurn = .engine → step s = .next t →
    t = { s with
      sched := s.sched.tail, work := t.work, phase := t.phase, xpend := t.xpend, xacc := t.xacc,
      xrsp := t.xrsp, res0 := t.res0, res1 := t.res1, res2 := t.res2, status := t.status } ∧
    t.status.cmdOvr = s.status.cmdOvr ∧ t.status.lastOp = s.status.lastOp

/-- R25, R60, R131: a host access while a command runs, made by a line of the host's program or by
anyone else, leaves the command, its request, its snapshot and the results alone, and leaves BUSY = 1,
DONE = 0, NOINV = 0 and ERR = 0; so does every other line of the host's program. -/
def Obligations.HostAccessLeavesTheRunningCommandAlone : Prop :=
  ∀ s t : State, Inv s → s.phase.running = true →
    (s.nextTurn = .host ∨ ∃ a, s.nextTurn = .access a) → step s = .next t →
    t.phase = s.phase ∧ t.work = s.work ∧ t.xpend = s.xpend ∧ t.xacc = s.xacc ∧ t.xrsp = s.xrsp ∧
    t.res0 = s.res0 ∧ t.res1 = s.res1 ∧ t.res2 = s.res2 ∧
    t.status.busy = true ∧ t.status.done = false ∧ t.status.noinv = false ∧
    t.status.err = .none ∧ t.status.lastOp = s.status.lastOp

/-- R217, R65: the block never stops. With reset released, every turn but the host's program has a
next state. -/
def Obligations.EveryTurnOfTheBlockHasANextState : Prop :=
  ∀ s : State, s.rst = false → s.nextTurn ≠ .host → ∃ t, step s = .next t

/-- R220, R126, R127: every completion of a running command sets DONE, clears BUSY, and raises irq
exactly when DONE_IE = 1. -/
def Obligations.CompletionRaisesTheInterrupt : Prop :=
  ∀ s t : State, s.nextTurn = .engine → step s = .next t → s.phase.running = true →
    t.phase = .idle → t.status.done = true ∧ t.status.busy = false ∧ t.irq = s.doneIe ∧
      t.irqLine = if s.doneIe then some s.params.nteIrq else none

/-! ### The register window -/

/-- R120, R63, R66: what a legal read returns at every offset; a read changes no state of the block
(the answer on the bus is log 4). -/
def Obligations.ReadReturnsTheRegisterMap : Prop :=
  ∀ (s : State) (d : Word), Inv s → s.rst = false →
    let reads := fun (o : Nat) (v : Word) =>
      portAccess exec { we := false, addr := BitVec.ofNat 12 o, be := 0b1111#4, wdata := d } s =
        .next { s with busReply := .read .okay v }
    reads 0x000 0x4E544501#32 ∧ reads 0x004 (BitVec.ofNat 32 s.params.w) ∧ reads 0x008 0#32 ∧
    reads 0x00C s.status.word ∧ reads 0x010 (if s.doneIe then 1#32 else 0#32) ∧
    (∀ k < s.params.nw,
      reads (0x100 + 4 * k) ((patternOf s.params s.opa).extractLsb' (32 * k) 32) ∧
      reads (0x200 + 4 * k) ((patternOf s.params s.opb).extractLsb' (32 * k) 32) ∧
      reads (0x300 + 4 * k) ((patternOf s.params s.opc).extractLsb' (32 * k) 32) ∧
      reads (0x400 + 4 * k) ((patternOf s.params s.res0).extractLsb' (32 * k) 32) ∧
      reads (0x500 + 4 * k) ((patternOf s.params s.res1).extractLsb' (32 * k) 32) ∧
      reads (0x600 + 4 * k) ((patternOf s.params s.res2).extractLsb' (32 * k) 32)) ∧
    ∀ o < 4096, o % 4 = 0 →
      ((0x014 ≤ o ∧ o < 0x100) ∨ 0x700 ≤ o ∨ (0x100 ≤ o ∧ s.params.nw ≤ o % 0x100 / 4)) →
      reads o 0#32

/-- R121, R66: what a legal write does at every offset. An operand write changes one word of one
register, in IDLE and in RUN; STATUS takes its W1C bits, IRQ_EN its bit 0; CMD is a command write;
the rest ignores the write. -/
def Obligations.WriteActsOnItsWordOnly : Prop :=
  ∀ (s : State) (v : Word), Inv s → s.rst = false →
    let s' := { s with busReply := .wrote .okay }
    let writes := fun (o : Nat) =>
      portAccess exec { we := true, addr := BitVec.ofNat 12 o, be := 0b1111#4, wdata := v } s
    let newWord := fun (r r' : DataReg) (k : Nat) => r'.length = r.length ∧
      ∀ j < s.params.nw, (patternOf s.params r').extractLsb' (32 * j) 32 =
        if j = k then v else (patternOf s.params r).extractLsb' (32 * j) 32
    writes 0x008 = commandWrite exec v s' ∧
    writes 0x00C = .next { s' with status := { s.status with
      done   := s.status.done && !v.getLsbD 1
      cmdOvr := s.status.cmdOvr && !v.getLsbD 8 } } ∧
    writes 0x010 = .next { s' with doneIe := v.getLsbD 0 } ∧
    (∀ k < s.params.nw,
      (∃ r, writes (0x100 + 4 * k) = .next { s' with opa := r } ∧ newWord s.opa r k) ∧
      (∃ r, writes (0x200 + 4 * k) = .next { s' with opb := r } ∧ newWord s.opb r k) ∧
      (∃ r, writes (0x300 + 4 * k) = .next { s' with opc := r } ∧ newWord s.opc r k)) ∧
    ∀ o < 4096, o % 4 = 0 →
      (o = 0x000 ∨ o = 0x004 ∨ (0x014 ≤ o ∧ o < 0x100) ∨ 0x400 ≤ o ∨
        (0x100 ≤ o ∧ s.params.nw ≤ o % 0x100 / 4)) →
      writes o = .next s'

/-- R64, R65: an access that is not 32 bits wide and aligned gets ERROR, a read of this kind returns
0, and no state of the block changes. The model answers it and does not stop (log 5). -/
def Obligations.IllegalAccessChangesNothing : Prop :=
  ∀ (s : State) (a : Access), s.rst = false →
    (a.be ≠ 0b1111#4 ∨ a.addr.toNat % 4 ≠ 0) →
    portAccess exec a s =
      .next { s with busReply := if a.we then .wrote .error else .read .error 0#32 }

/-- R33, R64, R65: h_resp is 0 (OKAY) for an access of 32 bits at an aligned address and 1 (ERROR) for
every other; h_rdata is given for reads. That the answer stands in State is log 4. -/
def Obligations.BusResponseIsOkayOrError : Prop :=
  ∀ (s : State) (a : Access), s.rst = false →
    ∃ t, portAccess exec a s = .next t ∧
      t.busReply.hResp =
        some (if a.be = 0b1111#4 ∧ a.addr.toNat % 4 = 0 then 0#1 else 1#1) ∧
      t.busReply.hRdata.isSome = !a.we

/-- R242: the model refuses a host access made while reset is asserted. -/
def Obligations.AccessDuringResetIsRefused : Prop :=
  ∀ (s : State) (a : Access), s.rst = true →
    portAccess exec a s = .refused .accessDuringReset

/-- R25, R210: the layout of STATUS as the host reads it, the reserved bits zero, and the numbers of
the error codes. -/
def Obligations.StatusWordLayout : Prop :=
  (∀ st : Status,
    st.word.getLsbD 0 = st.busy ∧ st.word.getLsbD 1 = st.done ∧ st.word.getLsbD 2 = st.noinv ∧
    st.word.getLsbD 3 = false ∧ st.word.extractLsb' 4 4 = st.err.code ∧
    st.word.getLsbD 8 = st.cmdOvr ∧ st.word.extractLsb' 9 3 = 0#3 ∧
    st.word.extractLsb' 12 4 = st.lastOp ∧ st.word.extractLsb' 16 16 = 0#16) ∧
  ErrCode.none.code = 0#4 ∧ ErrCode.invalidModulus.code = 1#4 ∧ ErrCode.illegalCommand.code = 2#4 ∧
  ErrCode.negativeExponent.code = 3#4 ∧ ErrCode.resultRange.code = 4#4

/-- R34: irq is DONE_IE and DONE; it falls when the host clears DONE, when a new command is accepted,
or when DONE_IE is cleared; it is 0 at reset. -/
def Obligations.InterruptIsDoneAndEnable : Prop :=
  (∀ s : State, s.irq = (s.doneIe && s.status.done)) ∧
  (∀ (s : State) (v : Word), v.getLsbD 1 = true → (writeTarget s v .status).irq = false) ∧
  (∀ (s : State) (c : Command), s.phase = .idle →
    ∃ t, exec c.instr s = .next t ∧ t.irq = false) ∧
  (∀ (s : State) (v : Word), v.getLsbD 0 = false → (writeTarget s v .irqEn).irq = false) ∧
  ∀ p : Params, (State.resetWith p).irq = false

/-! ### Host programs -/

/-- R91, R63, R84: after the lines of `ld <OPx>, v` the operand register holds `v`; no other state
of the block changes. The host as an agent is log 14. -/
def Obligations.LoadWritesTheOperand : Prop :=
  ∀ (s : State) (r : OpReg) (v : Int) (rest : List HostStmt), Inv s → s.rst = false →
    fitsW s.params.w v = true → s.sched = List.replicate s.params.nw .host →
    s.host.prog = asmLd s.params r v ++ rest → s.host.pc = 0 →
    ∃ t, Reaches s.params.nw s t ∧ t.operand r = v ∧
      (∀ q, q ≠ r → t.opReg q = s.opReg q) ∧
      t = { s with
        sched := [], host := { s.host with pc := s.params.nw }, busReply := .wrote .okay,
        opa := t.opa, opb := t.opb, opc := t.opc }

/-- R91, R63: `get <RESk> -> x` leaves in `x` the signed value of the result register, and changes
no register of the block. -/
def Obligations.GetReadsTheResult : Prop :=
  ∀ (s : State) (r : ResReg) (x y : Nat) (rest : List HostStmt), Inv s → s.rst = false →
    s.sched = List.replicate (s.params.nw + 1) .host →
    s.host.prog = asmGet s.params r x y ++ rest → s.host.pc = 0 →
    ∃ t, Reaches (s.params.nw + 1) s t ∧
      lookupVar t.host.vars x = some (valueOf s.params (s.resReg r)) ∧
      t = { s with sched := [], host := t.host, busReply := t.busReply } ∧
      t.host.pc = s.params.nw + 1

/-- R90: `bne` goes to its label exactly when the masked value differs, for integers of any size; AND
is bit by bit (for a negative integer, on its two's-complement pattern without end: log 14). Of two
lines with the label it takes the first (log 27). -/
def Obligations.BranchFollowsTheMaskedCompare : Prop :=
  (∀ (x y : Int) (k : Nat), (intAnd x y).testBit k = (x.testBit k && y.testBit k)) ∧
  ∀ (s : State) (x l line : Nat) (mask value : Int) (v : Int),
    s.nextTurn = .host → s.host.prog[s.host.pc]? = some (.bne x mask value l) →
    lookupVar s.host.vars x = some v → labelLine l s.host.prog = some line →
    step s = .next { s with
      sched := s.sched.tail
      host  := { s.host with
        pc := if intAnd v mask = value then s.host.pc + 1 else line } }

/-- R64, R90: the lines of a host program make legal accesses only, so a program never sees a bus
error that it did not see before. The host as an agent is log 14. -/
def Obligations.HostProgramMakesLegalAccessesOnly : Prop :=
  ∀ s t : State, s.params.Wf → s.nextTurn = .host → s.busReply.isError = false →
    step s = .next t → t.busReply.isError = false

/-- R132: a program has ended when no line it still comes to makes an access and PHASE = IDLE; from
then on neither the host nor the engine changes a register, so the final state is the state at that
moment, whatever lines are left. Turns are log 7, what counts as the last access log 29. -/
def Obligations.EndedProgramChangesNothing : Prop :=
  ∀ (s : State) (n : Nat), Inv s → s.hostEnded → (∀ u ∈ s.sched, u = .engine ∨ u = .host) →
    ∃ h : HostAgent, Reaches n s { s with sched := s.sched.drop n, host := h } ∧
      State.hostEnded { s with sched := s.sched.drop n, host := h }

/-- R132: a program that has not ended while PHASE = IDLE comes to a line that makes an access, or has a
fault, in a number of turns of the host, and changes no register before it (log 29). -/
def Obligations.UnendedProgramComesToAnAccess : Prop :=
  ∀ s : State, Inv s → s.phase = .idle → s.sched = [] → ¬ s.hostEnded →
    ∃ (n : Nat) (h : HostAgent) (st : HostStmt), Reaches n s { s with host := h } ∧
      h.prog[h.pc]? = some st ∧
      (quietLine s.params h st = none ∨ ∃ f, quietLine s.params h st = some (.error f))

/-! ### Reset -/

/-- R240, R22, R23, R25, R26, R31, R32, R34: the values the spec gives for reset. That working
registers are 0 is the model's choice (log 3) and is not stated. -/
def Obligations.ResetValues : Prop :=
  ∀ p : Params, p.Wf →
    let s := State.resetWith p
    valueOf p s.opa = 0 ∧ valueOf p s.opb = 0 ∧ valueOf p s.opc = 0 ∧
    valueOf p s.res0 = 0 ∧ valueOf p s.res1 = 0 ∧ valueOf p s.res2 = 0 ∧
    s.status.word = 0#32 ∧ irqEnWord s.doneIe = 0#32 ∧ s.phase = .idle ∧ s.xpend = none ∧
    s.xReqValid = false ∧
    s.irq = false ∧ s.params = p

/-- R240, R241: asserting reset, at any time, abandons the running command and the outstanding
request: nothing is committed, DONE is not set, no interrupt is raised. What the environment keeps
is log 16. -/
def Obligations.ResetAbandonsTheCommand : Prop :=
  ∀ s : State, s.nextTurn = .assertReset →
    ∃ t, step s = .next t ∧ t.phase = .idle ∧ t.xpend = none ∧ t.xacc = false ∧
      t.xrsp = none ∧ t.status = Status.atReset ∧ t.irq = false ∧ t.doneIe = false ∧
      t.params = s.params ∧
      (∀ r, t.opReg r = List.replicate s.params.nw 0#32) ∧
      (∀ r, t.resReg r = List.replicate s.params.nw 0#32) ∧
      t.rst = true ∧ t.host = s.host ∧ t.sched = s.sched.tail

/-- R33, R242: once reset is asserted the pin `rst` has the level that RST_STYLE's polarity gives it,
and once it is released the other level. Two turns for it are log 16. -/
def Obligations.ResetPinFollowsItsPolarity : Prop :=
  ∀ s : State, (s.nextTurn = .assertReset ∨ s.nextTurn = .releaseReset) →
    ∃ t, step s = .next t ∧
      (t.rstPin = true ↔
        (s.params.rstStyle.polarity = .activeHigh ↔ s.nextTurn = .assertReset))

/-- R32, R33, R241, R242: a response that arrives after a reset is on the port (of the width of log 11)
in its turn and is ignored; releasing reset changes nothing else. That a late response is a turn of its
own, also in a state where a new request or an untaken response stands on the port, and that it is then
shown in place of the waiting one, is the model's reading (log 17).
Turns are log 7, releasing log 16. -/
def Obligations.LateResponseAndReleaseChangeNothingElse : Prop :=
  ∀ s : State,
    (∀ v, s.nextTurn = .lateResponse v →
      s.xRspValid = true ∧ s.xRspData = some (BitVec.ofInt s.params.ww v) ∧
      step s = .next { s with sched := s.sched.tail }) ∧
    (s.nextTurn = .releaseReset → step s = .next { s with sched := s.sched.tail, rst := false })

/-! ### The invariant -/

/-- The invariant holds after reset, for every choice of the parameters. -/
def Obligations.ResetSatisfiesTheInvariant : Prop :=
  ∀ p : Params, p.Wf → Inv (State.resetWith p)

/-- R25, R31, R107, R170, R174, R193: every step keeps the invariant, whichever agent moves. -/
def Obligations.EveryStepKeepsTheInvariant : Prop :=
  ∀ s t : State, Inv s → step s = .next t → Inv t

/-- R106: the sequencer issues DIV and MOD only with a positive divisor. -/
def Obligations.IssuedDivisorsArePositive : Prop :=
  ∀ (s t : State) (r : Request), Inv s → step s = .next t → t.xpend = some r →
    r.op = .div ∨ r.op = .mod → 0 < r.y

/-! ### What the commands compute -/

/-- R150, R152, R153, R156: ISPRIME always completes, and RES0 = 1 exactly when the operand is
prime; nothing but the results, STATUS and the working registers changes. -/
def Obligations.IsprimeDecidesPrimality : Prop :=
  ∀ s : State, Ready s →
    ∃ (u : State) (n : Nat) (w : Work) (v : Int), exec .isprime s = .next u ∧
      RunsTo n u (s.completed .isprime w v 0 0 false) ∧
      ((v = 1 ∧ (s.operand .opa).toNat.Prime) ∨ (v = 0 ∧ ¬ (s.operand .opa).toNat.Prime))

/-- R171: EGCD_CORE on any integers `a` and `m ≥ 0`, of any size, returns the triple of the recursive
definition, at step G1 of EGCD and at step I1 of MODINV, which has `m > 0` (that the triple is left in
`w[r0]`, `w[s0]`, `w[t0]` is log 20); and for `m ≥ 0` the command EGCD completes with that triple. -/
def Obligations.EgcdEqualsTheRecursion : Prop :=
  (∀ (s : State) (inCore : CoreLabel → StepLabel) (ret : StepLabel),
    (inCore = inG1 ∧ ret = .egcd .g2) ∨ (inCore = inI1 ∧ ret = .modinv .i2) →
    Inv s → s.rst = false → s.sched = [] → s.phase = .run (inCore .e0) →
    ∃ (t : State) (n : Nat) (g x y : Int) (L : Nat), EgcdRef s.work.a s.work.m g x y L ∧
      Reaches n s t ∧ t.phase = .run ret ∧
      t.work.r0 = g ∧ t.work.s0 = x ∧ t.work.t0 = y) ∧
  ∀ s : State, Ready s → 0 ≤ s.operand .opb →
    ∃ (u : State) (n : Nat) (w : Work) (g x y : Int) (L : Nat), exec .egcd s = .next u ∧
      EgcdRef (s.operand .opa) (s.operand .opb) g x y L ∧
      RunsTo n u (s.completed .egcd w g x y false)

/-- R170, R172: for `m ≥ 0` EGCD completes with registers that read back as a Bézout triple; for
`m > 0` the first is the greatest common divisor, for `m = 0` it is `a`. -/
def Obligations.EgcdReturnsABezoutTriple : Prop :=
  ∀ s : State, Ready s → 0 ≤ s.operand .opb →
    ∃ (u t : State) (n : Nat), exec .egcd s = .next u ∧ RunsTo n u t ∧ t.status.err = .none ∧
      s.operand .opa * valueOf t.params t.res1 + s.operand .opb * valueOf t.params t.res2 =
        valueOf t.params t.res0 ∧
      valueOf t.params t.res0 =
        if s.operand .opb = 0 then s.operand .opa
        else (Int.gcd (s.operand .opa) (s.operand .opb) : Int)

/-- R175: MODINV completes with NOINV = 1 and all results 0 exactly when the gcd is not 1; otherwise
it completes with the inverse in `[0, m)` (R173, R174). -/
def Obligations.ModinvReturnsTheInverseOrNone : Prop :=
  ∀ s : State, Ready s → 0 < s.operand .opb →
    ∃ (u : State) (n : Nat) (w : Work) (v : Int) (noinv : Bool), exec .modinv s = .next u ∧
      RunsTo n u (s.completed .modinv w v 0 0 noinv) ∧
      (noinv = true ↔ Int.gcd (s.operand .opa) (s.operand .opb) ≠ 1) ∧
      (noinv = true → v = 0) ∧
      (noinv = false → 0 ≤ v ∧ v < s.operand .opb ∧
        s.operand .opa * v % s.operand .opb = 1 % s.operand .opb)

/-- R190, R192, R193, R195: MODPOW commits `base ^ exponent mod modulus`, in `[0, modulus)`, for
every base. -/
def Obligations.ModpowCommitsThePower : Prop :=
  ∀ s : State, Ready s → 0 < s.operand .opc → 0 ≤ s.operand .opb →
    ∃ (u : State) (n : Nat) (w : Work), exec .modpow s = .next u ∧
      RunsTo n u (s.completed .modpow w
        (s.operand .opa ^ (s.operand .opb).toNat % s.operand .opc) 0 0 false)

/-- R190, R191, R216: MODPOW reports the first failing check, before any port transaction, and writes
no result. -/
def Obligations.ModpowReportsTheFirstFailingCheck : Prop :=
  ∀ s : State, Ready s →
    (s.operand .opc ≤ 0 → ∃ (u : State) (n : Nat) (w : Work), exec .modpow s = .next u ∧
      RunsTo n u (s.failed .modpow w .invalidModulus) ∧ portTrace n u = []) ∧
    (0 < s.operand .opc → s.operand .opb < 0 →
      ∃ (u : State) (n : Nat) (w : Work), exec .modpow s = .next u ∧
        RunsTo n u (s.failed .modpow w .negativeExponent) ∧ portTrace n u = [])

/-- R172, R173, R210: EGCD with `m < 0` and MODINV with `m ≤ 0` complete with INVALID_MODULUS, before
any port transaction, and write no result. -/
def Obligations.EuclidRejectsBadModuli : Prop :=
  ∀ s : State, Ready s →
    (s.operand .opb < 0 → ∃ (u : State) (n : Nat) (w : Work), exec .egcd s = .next u ∧
      RunsTo n u (s.failed .egcd w .invalidModulus) ∧ portTrace n u = []) ∧
    (s.operand .opb ≤ 0 → ∃ (u : State) (n : Nat) (w : Work), exec .modinv s = .next u ∧
      RunsTo n u (s.failed .modinv w .invalidModulus) ∧ portTrace n u = [])

/-! ### Port transactions -/

/-- R154: the number of port transactions of ISPRIME, which always completes. -/
def Obligations.IsprimeTransactionCount : Prop :=
  ∀ s : State, Ready s →
    ∃ (u t : State) (n : Nat), exec .isprime s = .next u ∧ RunsTo n u t ∧
      (portTrace n u).length = isprimeCalls (s.operand .opa)

/-- R176: with `L` passes EGCD issues `6L` transactions; MODINV issues `6L + 3` with an inverse and
`6L` without; where they raise, none. -/
def Obligations.EuclidTransactionCounts : Prop :=
  ∀ s : State, Ready s →
    (0 ≤ s.operand .opb → ∃ (u t : State) (n : Nat) (g x y : Int) (L : Nat),
      exec .egcd s = .next u ∧ RunsTo n u t ∧
      EgcdRef (s.operand .opa) (s.operand .opb) g x y L ∧ (portTrace n u).length = 6 * L) ∧
    (0 < s.operand .opb → ∃ (u t : State) (n : Nat) (g x y : Int) (L : Nat),
      exec .modinv s = .next u ∧ RunsTo n u t ∧
      EgcdRef (s.operand .opa) (s.operand .opb) g x y L ∧
      (portTrace n u).length = if t.status.noinv then 6 * L else 6 * L + 3) ∧
    (s.operand .opb < 0 → ∃ (u t : State) (n : Nat),
      exec .egcd s = .next u ∧ RunsTo n u t ∧ portTrace n u = []) ∧
    (s.operand .opb ≤ 0 → ∃ (u t : State) (n : Nat),
      exec .modinv s = .next u ∧ RunsTo n u t ∧ portTrace n u = [])

/-- R194: MODPOW issues no transaction where P0 raises or commits, and otherwise
`1 + 2 * (bitlen + popcount)` of its exponent; it always completes. -/
def Obligations.ModpowTransactionCount : Prop :=
  ∀ s : State, Ready s →
    ∃ (u t : State) (n : Nat), exec .modpow s = .next u ∧ RunsTo n u t ∧
      (portTrace n u).length =
        if s.operand .opc ≤ 1 ∨ s.operand .opb < 0 then 0
        else 1 + 2 * ((s.operand .opb).toNat.size + popcount (s.operand .opb).toNat)

/-- R110: every value that is passed to or received from the primitive unit, in any number of steps
from an idle state, whatever the schedule holds (host accesses during a command, resets), lies in
`[-2^(W-1) - 1, 2^(2W-2)]`. -/
def Obligations.PortValuesStayInRange : Prop :=
  ∀ (s x : State) (k : Nat) (r : Request), Inv s → s.phase = .idle → Reaches k s x →
    x.xpend = some r →
    ∀ v, v = r.x ∨ v = r.y ∨ v = r.result →
      -(2 : Int) ^ (s.params.w - 1) - 1 ≤ v ∧ v ≤ 2 ^ (2 * s.params.w - 2)

/-! ### Isolation -/

/-- R72, R245: an operand write and a turn of the engine can be exchanged: a write while a command
runs does not change what the command does. -/
def Obligations.OperandWriteCommutesWithTheEngine : Prop :=
  ∀ (s t : State) (a : Access) (r : OpReg) (k : Nat) (rest : List Turn),
    s.rst = false → a.legal = true → a.we = true → s.targetOf a = .opWord r k →
    (Reaches 2 { s with sched := .access a :: .engine :: rest } t ↔
      Reaches 2 { s with sched := .engine :: .access a :: rest } t)

/-- R133, R30: two idle blocks that agree on the operands a command uses run it in the same number of
steps to the same status and, if it succeeds, the same results: not on earlier commands, and not on
what the working registers hold (so not on log 3). -/
def Obligations.CompletionDependsOnUsedOperandsOnly : Prop :=
  ∀ (c : Command) (s s' : State), Ready s → Ready s' → s.params.w = s'.params.w →
    (∀ r ∈ usedOperands c, s.operand r = s'.operand r) →
    ∃ (u u' t t' : State) (n : Nat), exec c.instr s = .next u ∧ exec c.instr s' = .next u' ∧
      RunsTo n u t ∧ RunsTo n u' t' ∧ portTrace n u = portTrace n u' ∧
      t.status.err = t'.status.err ∧ t.status.noinv = t'.status.noinv ∧
      t.status.done = t'.status.done ∧ t.status.busy = t'.status.busy ∧
      t.status.lastOp = t'.status.lastOp ∧
      (t.status.err = .none → t.res0 = t'.res0 ∧ t.res1 = t'.res1 ∧ t.res2 = t'.res2)
end

