-- ==== Sys2Proof/Laws/State.lean ====
section
/-! SUPPORT. One lemma per field per update of State: what each update writes, and that it leaves
every other field alone. -/

namespace Sys2Proof.Machine

variable (s : State)

/-! ### accept -/

@[simp] theorem accept_params (c : Command) : (s.accept c).params = s.params := rfl
@[simp] theorem accept_rst (c : Command) : (s.accept c).rst = s.rst := rfl
@[simp] theorem accept_opa (c : Command) : (s.accept c).opa = s.opa := rfl
@[simp] theorem accept_opb (c : Command) : (s.accept c).opb = s.opb := rfl
@[simp] theorem accept_opc (c : Command) : (s.accept c).opc = s.opc := rfl
@[simp] theorem accept_res0 (c : Command) : (s.accept c).res0 = s.res0 := rfl
@[simp] theorem accept_res1 (c : Command) : (s.accept c).res1 = s.res1 := rfl
@[simp] theorem accept_res2 (c : Command) : (s.accept c).res2 = s.res2 := rfl
@[simp] theorem accept_status (c : Command) : (s.accept c).status = s.status.accepted c.op := rfl
@[simp] theorem accept_doneIe (c : Command) : (s.accept c).doneIe = s.doneIe := rfl
@[simp] theorem accept_work (c : Command) : (s.accept c).work = s.snapshot c := rfl
@[simp] theorem accept_phase (c : Command) : (s.accept c).phase = .run (firstStep c) := rfl
@[simp] theorem accept_xpend (c : Command) : (s.accept c).xpend = s.xpend := rfl
@[simp] theorem accept_xacc (c : Command) : (s.accept c).xacc = s.xacc := rfl
@[simp] theorem accept_xrsp (c : Command) : (s.accept c).xrsp = s.xrsp := rfl
@[simp] theorem accept_busReply (c : Command) : (s.accept c).busReply = s.busReply := rfl
@[simp] theorem accept_host (c : Command) : (s.accept c).host = s.host := rfl
@[simp] theorem accept_sched (c : Command) : (s.accept c).sched = s.sched := rfl

/-! ### overrun -/

@[simp] theorem overrun_params : s.overrun.params = s.params := rfl
@[simp] theorem overrun_rst : s.overrun.rst = s.rst := rfl
@[simp] theorem overrun_opa : s.overrun.opa = s.opa := rfl
@[simp] theorem overrun_opb : s.overrun.opb = s.opb := rfl
@[simp] theorem overrun_opc : s.overrun.opc = s.opc := rfl
@[simp] theorem overrun_res0 : s.overrun.res0 = s.res0 := rfl
@[simp] theorem overrun_res1 : s.overrun.res1 = s.res1 := rfl
@[simp] theorem overrun_res2 : s.overrun.res2 = s.res2 := rfl
@[simp] theorem overrun_status : s.overrun.status = s.status.overrun := rfl
@[simp] theorem overrun_doneIe : s.overrun.doneIe = s.doneIe := rfl
@[simp] theorem overrun_work : s.overrun.work = s.work := rfl
@[simp] theorem overrun_phase : s.overrun.phase = s.phase := rfl
@[simp] theorem overrun_xpend : s.overrun.xpend = s.xpend := rfl
@[simp] theorem overrun_xacc : s.overrun.xacc = s.xacc := rfl
@[simp] theorem overrun_xrsp : s.overrun.xrsp = s.xrsp := rfl
@[simp] theorem overrun_busReply : s.overrun.busReply = s.busReply := rfl
@[simp] theorem overrun_host : s.overrun.host = s.host := rfl
@[simp] theorem overrun_sched : s.overrun.sched = s.sched := rfl

/-! ### raiseError -/

@[simp] theorem raiseError_params (e : ErrCode) : (s.raiseError e).params = s.params := rfl
@[simp] theorem raiseError_rst (e : ErrCode) : (s.raiseError e).rst = s.rst := rfl
@[simp] theorem raiseError_opa (e : ErrCode) : (s.raiseError e).opa = s.opa := rfl
@[simp] theorem raiseError_opb (e : ErrCode) : (s.raiseError e).opb = s.opb := rfl
@[simp] theorem raiseError_opc (e : ErrCode) : (s.raiseError e).opc = s.opc := rfl
@[simp] theorem raiseError_res0 (e : ErrCode) : (s.raiseError e).res0 = s.res0 := rfl
@[simp] theorem raiseError_res1 (e : ErrCode) : (s.raiseError e).res1 = s.res1 := rfl
@[simp] theorem raiseError_res2 (e : ErrCode) : (s.raiseError e).res2 = s.res2 := rfl
@[simp] theorem raiseError_status (e : ErrCode) : (s.raiseError e).status = s.status.raised e := rfl
@[simp] theorem raiseError_doneIe (e : ErrCode) : (s.raiseError e).doneIe = s.doneIe := rfl
@[simp] theorem raiseError_work (e : ErrCode) : (s.raiseError e).work = s.work := rfl
@[simp] theorem raiseError_phase (e : ErrCode) : (s.raiseError e).phase = .idle := rfl
@[simp] theorem raiseError_xpend (e : ErrCode) : (s.raiseError e).xpend = s.xpend := rfl
@[simp] theorem raiseError_xacc (e : ErrCode) : (s.raiseError e).xacc = s.xacc := rfl
@[simp] theorem raiseError_xrsp (e : ErrCode) : (s.raiseError e).xrsp = s.xrsp := rfl
@[simp] theorem raiseError_busReply (e : ErrCode) : (s.raiseError e).busReply = s.busReply := rfl
@[simp] theorem raiseError_host (e : ErrCode) : (s.raiseError e).host = s.host := rfl
@[simp] theorem raiseError_sched (e : ErrCode) : (s.raiseError e).sched = s.sched := rfl

/-! ### acknowledge -/

@[simp] theorem acknowledge_params : s.acknowledge.params = s.params := rfl
@[simp] theorem acknowledge_rst : s.acknowledge.rst = s.rst := rfl
@[simp] theorem acknowledge_opa : s.acknowledge.opa = s.opa := rfl
@[simp] theorem acknowledge_opb : s.acknowledge.opb = s.opb := rfl
@[simp] theorem acknowledge_opc : s.acknowledge.opc = s.opc := rfl
@[simp] theorem acknowledge_res0 : s.acknowledge.res0 = s.res0 := rfl
@[simp] theorem acknowledge_res1 : s.acknowledge.res1 = s.res1 := rfl
@[simp] theorem acknowledge_res2 : s.acknowledge.res2 = s.res2 := rfl
@[simp] theorem acknowledge_status : s.acknowledge.status = s.status.writeOneToClear 0x2#32 := rfl
@[simp] theorem acknowledge_doneIe : s.acknowledge.doneIe = s.doneIe := rfl
@[simp] theorem acknowledge_work : s.acknowledge.work = s.work := rfl
@[simp] theorem acknowledge_phase : s.acknowledge.phase = s.phase := rfl
@[simp] theorem acknowledge_xpend : s.acknowledge.xpend = s.xpend := rfl
@[simp] theorem acknowledge_xacc : s.acknowledge.xacc = s.xacc := rfl
@[simp] theorem acknowledge_xrsp : s.acknowledge.xrsp = s.xrsp := rfl
@[simp] theorem acknowledge_busReply : s.acknowledge.busReply = s.busReply := rfl
@[simp] theorem acknowledge_host : s.acknowledge.host = s.host := rfl
@[simp] theorem acknowledge_sched : s.acknowledge.sched = s.sched := rfl

/-! ### acceptRequest -/

@[simp] theorem acceptRequest_params : s.acceptRequest.params = s.params := rfl
@[simp] theorem acceptRequest_rst : s.acceptRequest.rst = s.rst := rfl
@[simp] theorem acceptRequest_opa : s.acceptRequest.opa = s.opa := rfl
@[simp] theorem acceptRequest_opb : s.acceptRequest.opb = s.opb := rfl
@[simp] theorem acceptRequest_opc : s.acceptRequest.opc = s.opc := rfl
@[simp] theorem acceptRequest_res0 : s.acceptRequest.res0 = s.res0 := rfl
@[simp] theorem acceptRequest_res1 : s.acceptRequest.res1 = s.res1 := rfl
@[simp] theorem acceptRequest_res2 : s.acceptRequest.res2 = s.res2 := rfl
@[simp] theorem acceptRequest_status : s.acceptRequest.status = s.status := rfl
@[simp] theorem acceptRequest_doneIe : s.acceptRequest.doneIe = s.doneIe := rfl
@[simp] theorem acceptRequest_work : s.acceptRequest.work = s.work := rfl
@[simp] theorem acceptRequest_phase : s.acceptRequest.phase = s.phase := rfl
@[simp] theorem acceptRequest_xpend : s.acceptRequest.xpend = s.xpend := rfl
@[simp] theorem acceptRequest_xacc : s.acceptRequest.xacc = true := rfl
@[simp] theorem acceptRequest_xrsp : s.acceptRequest.xrsp = s.xrsp := rfl
@[simp] theorem acceptRequest_busReply : s.acceptRequest.busReply = s.busReply := rfl
@[simp] theorem acceptRequest_host : s.acceptRequest.host = s.host := rfl
@[simp] theorem acceptRequest_sched : s.acceptRequest.sched = s.sched := rfl

/-! ### respond -/

@[simp] theorem respond_params (v : Int) : (s.respond v).params = s.params := rfl
@[simp] theorem respond_rst (v : Int) : (s.respond v).rst = s.rst := rfl
@[simp] theorem respond_opa (v : Int) : (s.respond v).opa = s.opa := rfl
@[simp] theorem respond_opb (v : Int) : (s.respond v).opb = s.opb := rfl
@[simp] theorem respond_opc (v : Int) : (s.respond v).opc = s.opc := rfl
@[simp] theorem respond_res0 (v : Int) : (s.respond v).res0 = s.res0 := rfl
@[simp] theorem respond_res1 (v : Int) : (s.respond v).res1 = s.res1 := rfl
@[simp] theorem respond_res2 (v : Int) : (s.respond v).res2 = s.res2 := rfl
@[simp] theorem respond_status (v : Int) : (s.respond v).status = s.status := rfl
@[simp] theorem respond_doneIe (v : Int) : (s.respond v).doneIe = s.doneIe := rfl
@[simp] theorem respond_work (v : Int) : (s.respond v).work = s.work := rfl
@[simp] theorem respond_phase (v : Int) : (s.respond v).phase = s.phase := rfl
@[simp] theorem respond_xpend (v : Int) : (s.respond v).xpend = s.xpend := rfl
@[simp] theorem respond_xacc (v : Int) : (s.respond v).xacc = s.xacc := rfl
@[simp] theorem respond_xrsp (v : Int) : (s.respond v).xrsp = some v := rfl
@[simp] theorem respond_busReply (v : Int) : (s.respond v).busReply = s.busReply := rfl
@[simp] theorem respond_host (v : Int) : (s.respond v).host = s.host := rfl
@[simp] theorem respond_sched (v : Int) : (s.respond v).sched = s.sched := rfl

/-! ### takeResponse -/

@[simp] theorem takeResponse_params : s.takeResponse.params = s.params := rfl
@[simp] theorem takeResponse_rst : s.takeResponse.rst = s.rst := rfl
@[simp] theorem takeResponse_opa : s.takeResponse.opa = s.opa := rfl
@[simp] theorem takeResponse_opb : s.takeResponse.opb = s.opb := rfl
@[simp] theorem takeResponse_opc : s.takeResponse.opc = s.opc := rfl
@[simp] theorem takeResponse_res0 : s.takeResponse.res0 = s.res0 := rfl
@[simp] theorem takeResponse_res1 : s.takeResponse.res1 = s.res1 := rfl
@[simp] theorem takeResponse_res2 : s.takeResponse.res2 = s.res2 := rfl
@[simp] theorem takeResponse_status : s.takeResponse.status = s.status := rfl
@[simp] theorem takeResponse_doneIe : s.takeResponse.doneIe = s.doneIe := rfl
@[simp] theorem takeResponse_work : s.takeResponse.work = s.work := rfl
@[simp] theorem takeResponse_phase : s.takeResponse.phase = s.phase := rfl
@[simp] theorem takeResponse_xpend : s.takeResponse.xpend = none := rfl
@[simp] theorem takeResponse_xacc : s.takeResponse.xacc = false := rfl
@[simp] theorem takeResponse_xrsp : s.takeResponse.xrsp = none := rfl
@[simp] theorem takeResponse_busReply : s.takeResponse.busReply = s.busReply := rfl
@[simp] theorem takeResponse_host : s.takeResponse.host = s.host := rfl
@[simp] theorem takeResponse_sched : s.takeResponse.sched = s.sched := rfl

/-! ### busError -/

@[simp] theorem busError_params (a : Access) : (s.busError a).params = s.params := rfl
@[simp] theorem busError_rst (a : Access) : (s.busError a).rst = s.rst := rfl
@[simp] theorem busError_opa (a : Access) : (s.busError a).opa = s.opa := rfl
@[simp] theorem busError_opb (a : Access) : (s.busError a).opb = s.opb := rfl
@[simp] theorem busError_opc (a : Access) : (s.busError a).opc = s.opc := rfl
@[simp] theorem busError_res0 (a : Access) : (s.busError a).res0 = s.res0 := rfl
@[simp] theorem busError_res1 (a : Access) : (s.busError a).res1 = s.res1 := rfl
@[simp] theorem busError_res2 (a : Access) : (s.busError a).res2 = s.res2 := rfl
@[simp] theorem busError_status (a : Access) : (s.busError a).status = s.status := rfl
@[simp] theorem busError_doneIe (a : Access) : (s.busError a).doneIe = s.doneIe := rfl
@[simp] theorem busError_work (a : Access) : (s.busError a).work = s.work := rfl
@[simp] theorem busError_phase (a : Access) : (s.busError a).phase = s.phase := rfl
@[simp] theorem busError_xpend (a : Access) : (s.busError a).xpend = s.xpend := rfl
@[simp] theorem busError_xacc (a : Access) : (s.busError a).xacc = s.xacc := rfl
@[simp] theorem busError_xrsp (a : Access) : (s.busError a).xrsp = s.xrsp := rfl
@[simp] theorem busError_busReply (a : Access) : (s.busError a).busReply = if a.we then .wrote .error else .read .error 0#32 := rfl
@[simp] theorem busError_host (a : Access) : (s.busError a).host = s.host := rfl
@[simp] theorem busError_sched (a : Access) : (s.busError a).sched = s.sched := rfl

/-! ### releaseReset -/

@[simp] theorem releaseReset_params : s.releaseReset.params = s.params := rfl
@[simp] theorem releaseReset_rst : s.releaseReset.rst = false := rfl
@[simp] theorem releaseReset_opa : s.releaseReset.opa = s.opa := rfl
@[simp] theorem releaseReset_opb : s.releaseReset.opb = s.opb := rfl
@[simp] theorem releaseReset_opc : s.releaseReset.opc = s.opc := rfl
@[simp] theorem releaseReset_res0 : s.releaseReset.res0 = s.res0 := rfl
@[simp] theorem releaseReset_res1 : s.releaseReset.res1 = s.res1 := rfl
@[simp] theorem releaseReset_res2 : s.releaseReset.res2 = s.res2 := rfl
@[simp] theorem releaseReset_status : s.releaseReset.status = s.status := rfl
@[simp] theorem releaseReset_doneIe : s.releaseReset.doneIe = s.doneIe := rfl
@[simp] theorem releaseReset_work : s.releaseReset.work = s.work := rfl
@[simp] theorem releaseReset_phase : s.releaseReset.phase = s.phase := rfl
@[simp] theorem releaseReset_xpend : s.releaseReset.xpend = s.xpend := rfl
@[simp] theorem releaseReset_xacc : s.releaseReset.xacc = s.xacc := rfl
@[simp] theorem releaseReset_xrsp : s.releaseReset.xrsp = s.xrsp := rfl
@[simp] theorem releaseReset_busReply : s.releaseReset.busReply = s.busReply := rfl
@[simp] theorem releaseReset_host : s.releaseReset.host = s.host := rfl
@[simp] theorem releaseReset_sched : s.releaseReset.sched = s.sched := rfl

/-! ### assertReset -/

@[simp] theorem assertReset_params : s.assertReset.params = s.params := rfl
@[simp] theorem assertReset_rst : s.assertReset.rst = true := rfl
@[simp] theorem assertReset_opa : s.assertReset.opa = List.replicate s.params.nw 0#32 := rfl
@[simp] theorem assertReset_opb : s.assertReset.opb = List.replicate s.params.nw 0#32 := rfl
@[simp] theorem assertReset_opc : s.assertReset.opc = List.replicate s.params.nw 0#32 := rfl
@[simp] theorem assertReset_res0 : s.assertReset.res0 = List.replicate s.params.nw 0#32 := rfl
@[simp] theorem assertReset_res1 : s.assertReset.res1 = List.replicate s.params.nw 0#32 := rfl
@[simp] theorem assertReset_res2 : s.assertReset.res2 = List.replicate s.params.nw 0#32 := rfl
@[simp] theorem assertReset_status : s.assertReset.status = Status.atReset := rfl
@[simp] theorem assertReset_doneIe : s.assertReset.doneIe = false := rfl
@[simp] theorem assertReset_work : s.assertReset.work = Work.atReset := rfl
@[simp] theorem assertReset_phase : s.assertReset.phase = .idle := rfl
@[simp] theorem assertReset_xpend : s.assertReset.xpend = none := rfl
@[simp] theorem assertReset_xacc : s.assertReset.xacc = false := rfl
@[simp] theorem assertReset_xrsp : s.assertReset.xrsp = none := rfl
@[simp] theorem assertReset_busReply : s.assertReset.busReply = .idle := rfl
@[simp] theorem assertReset_host : s.assertReset.host = s.host := rfl
@[simp] theorem assertReset_sched : s.assertReset.sched = s.sched := rfl

/-! ### hostAt -/

@[simp] theorem hostAt_params (line : Nat) : (s.hostAt line).params = s.params := rfl
@[simp] theorem hostAt_rst (line : Nat) : (s.hostAt line).rst = s.rst := rfl
@[simp] theorem hostAt_opa (line : Nat) : (s.hostAt line).opa = s.opa := rfl
@[simp] theorem hostAt_opb (line : Nat) : (s.hostAt line).opb = s.opb := rfl
@[simp] theorem hostAt_opc (line : Nat) : (s.hostAt line).opc = s.opc := rfl
@[simp] theorem hostAt_res0 (line : Nat) : (s.hostAt line).res0 = s.res0 := rfl
@[simp] theorem hostAt_res1 (line : Nat) : (s.hostAt line).res1 = s.res1 := rfl
@[simp] theorem hostAt_res2 (line : Nat) : (s.hostAt line).res2 = s.res2 := rfl
@[simp] theorem hostAt_status (line : Nat) : (s.hostAt line).status = s.status := rfl
@[simp] theorem hostAt_doneIe (line : Nat) : (s.hostAt line).doneIe = s.doneIe := rfl
@[simp] theorem hostAt_work (line : Nat) : (s.hostAt line).work = s.work := rfl
@[simp] theorem hostAt_phase (line : Nat) : (s.hostAt line).phase = s.phase := rfl
@[simp] theorem hostAt_xpend (line : Nat) : (s.hostAt line).xpend = s.xpend := rfl
@[simp] theorem hostAt_xacc (line : Nat) : (s.hostAt line).xacc = s.xacc := rfl
@[simp] theorem hostAt_xrsp (line : Nat) : (s.hostAt line).xrsp = s.xrsp := rfl
@[simp] theorem hostAt_busReply (line : Nat) : (s.hostAt line).busReply = s.busReply := rfl
@[simp] theorem hostAt_host (line : Nat) : (s.hostAt line).host = { s.host with pc := line } := rfl
@[simp] theorem hostAt_sched (line : Nat) : (s.hostAt line).sched = s.sched := rfl

/-! ### hostAssign -/

@[simp] theorem hostAssign_params (x : Nat) (v : Int) : (s.hostAssign x v).params = s.params := rfl
@[simp] theorem hostAssign_rst (x : Nat) (v : Int) : (s.hostAssign x v).rst = s.rst := rfl
@[simp] theorem hostAssign_opa (x : Nat) (v : Int) : (s.hostAssign x v).opa = s.opa := rfl
@[simp] theorem hostAssign_opb (x : Nat) (v : Int) : (s.hostAssign x v).opb = s.opb := rfl
@[simp] theorem hostAssign_opc (x : Nat) (v : Int) : (s.hostAssign x v).opc = s.opc := rfl
@[simp] theorem hostAssign_res0 (x : Nat) (v : Int) : (s.hostAssign x v).res0 = s.res0 := rfl
@[simp] theorem hostAssign_res1 (x : Nat) (v : Int) : (s.hostAssign x v).res1 = s.res1 := rfl
@[simp] theorem hostAssign_res2 (x : Nat) (v : Int) : (s.hostAssign x v).res2 = s.res2 := rfl
@[simp] theorem hostAssign_status (x : Nat) (v : Int) : (s.hostAssign x v).status = s.status := rfl
@[simp] theorem hostAssign_doneIe (x : Nat) (v : Int) : (s.hostAssign x v).doneIe = s.doneIe := rfl
@[simp] theorem hostAssign_work (x : Nat) (v : Int) : (s.hostAssign x v).work = s.work := rfl
@[simp] theorem hostAssign_phase (x : Nat) (v : Int) : (s.hostAssign x v).phase = s.phase := rfl
@[simp] theorem hostAssign_xpend (x : Nat) (v : Int) : (s.hostAssign x v).xpend = s.xpend := rfl
@[simp] theorem hostAssign_xacc (x : Nat) (v : Int) : (s.hostAssign x v).xacc = s.xacc := rfl
@[simp] theorem hostAssign_xrsp (x : Nat) (v : Int) : (s.hostAssign x v).xrsp = s.xrsp := rfl
@[simp] theorem hostAssign_busReply (x : Nat) (v : Int) : (s.hostAssign x v).busReply = s.busReply := rfl
@[simp] theorem hostAssign_host (x : Nat) (v : Int) : (s.hostAssign x v).host = { s.host with vars := assignVar s.host.vars x v } := rfl
@[simp] theorem hostAssign_sched (x : Nat) (v : Int) : (s.hostAssign x v).sched = s.sched := rfl

/-! ### popTurn -/

@[simp] theorem popTurn_params : s.popTurn.params = s.params := rfl
@[simp] theorem popTurn_rst : s.popTurn.rst = s.rst := rfl
@[simp] theorem popTurn_opa : s.popTurn.opa = s.opa := rfl
@[simp] theorem popTurn_opb : s.popTurn.opb = s.opb := rfl
@[simp] theorem popTurn_opc : s.popTurn.opc = s.opc := rfl
@[simp] theorem popTurn_res0 : s.popTurn.res0 = s.res0 := rfl
@[simp] theorem popTurn_res1 : s.popTurn.res1 = s.res1 := rfl
@[simp] theorem popTurn_res2 : s.popTurn.res2 = s.res2 := rfl
@[simp] theorem popTurn_status : s.popTurn.status = s.status := rfl
@[simp] theorem popTurn_doneIe : s.popTurn.doneIe = s.doneIe := rfl
@[simp] theorem popTurn_work : s.popTurn.work = s.work := rfl
@[simp] theorem popTurn_phase : s.popTurn.phase = s.phase := rfl
@[simp] theorem popTurn_xpend : s.popTurn.xpend = s.xpend := rfl
@[simp] theorem popTurn_xacc : s.popTurn.xacc = s.xacc := rfl
@[simp] theorem popTurn_xrsp : s.popTurn.xrsp = s.xrsp := rfl
@[simp] theorem popTurn_busReply : s.popTurn.busReply = s.busReply := rfl
@[simp] theorem popTurn_host : s.popTurn.host = s.host := rfl
@[simp] theorem popTurn_sched : s.popTurn.sched = s.sched.tail := rfl

/-! ### setOpReg: only the named operand register changes -/

@[simp] theorem setOpReg_params (r : DataReg) (x : OpReg) : (s.setOpReg r x).params = s.params := by
  cases x <;> rfl
@[simp] theorem setOpReg_rst (r : DataReg) (x : OpReg) : (s.setOpReg r x).rst = s.rst := by
  cases x <;> rfl
@[simp] theorem setOpReg_res0 (r : DataReg) (x : OpReg) : (s.setOpReg r x).res0 = s.res0 := by
  cases x <;> rfl
@[simp] theorem setOpReg_res1 (r : DataReg) (x : OpReg) : (s.setOpReg r x).res1 = s.res1 := by
  cases x <;> rfl
@[simp] theorem setOpReg_res2 (r : DataReg) (x : OpReg) : (s.setOpReg r x).res2 = s.res2 := by
  cases x <;> rfl
@[simp] theorem setOpReg_status (r : DataReg) (x : OpReg) : (s.setOpReg r x).status = s.status := by
  cases x <;> rfl
@[simp] theorem setOpReg_doneIe (r : DataReg) (x : OpReg) : (s.setOpReg r x).doneIe = s.doneIe := by
  cases x <;> rfl
@[simp] theorem setOpReg_work (r : DataReg) (x : OpReg) : (s.setOpReg r x).work = s.work := by
  cases x <;> rfl
@[simp] theorem setOpReg_phase (r : DataReg) (x : OpReg) : (s.setOpReg r x).phase = s.phase := by
  cases x <;> rfl
@[simp] theorem setOpReg_xpend (r : DataReg) (x : OpReg) : (s.setOpReg r x).xpend = s.xpend := by
  cases x <;> rfl
@[simp] theorem setOpReg_xacc (r : DataReg) (x : OpReg) : (s.setOpReg r x).xacc = s.xacc := by
  cases x <;> rfl
@[simp] theorem setOpReg_xrsp (r : DataReg) (x : OpReg) : (s.setOpReg r x).xrsp = s.xrsp := by
  cases x <;> rfl
@[simp] theorem setOpReg_busReply (r : DataReg) (x : OpReg) : (s.setOpReg r x).busReply = s.busReply := by
  cases x <;> rfl
@[simp] theorem setOpReg_host (r : DataReg) (x : OpReg) : (s.setOpReg r x).host = s.host := by
  cases x <;> rfl
@[simp] theorem setOpReg_sched (r : DataReg) (x : OpReg) : (s.setOpReg r x).sched = s.sched := by
  cases x <;> rfl

theorem setOpReg_opReg (r : DataReg) (x y : OpReg) :
    (s.setOpReg r x).opReg y = if x = y then r else s.opReg y := by
  cases x <;> cases y <;> rfl

/-! ### commit: the results, STATUS and PHASE, nothing else -/

@[simp] theorem commit_params (x y z : Int) (b : Bool) : (s.commit x y z b).params = s.params := by
  unfold State.commit; split <;> rfl
@[simp] theorem commit_rst (x y z : Int) (b : Bool) : (s.commit x y z b).rst = s.rst := by
  unfold State.commit; split <;> rfl
@[simp] theorem commit_opa (x y z : Int) (b : Bool) : (s.commit x y z b).opa = s.opa := by
  unfold State.commit; split <;> rfl
@[simp] theorem commit_opb (x y z : Int) (b : Bool) : (s.commit x y z b).opb = s.opb := by
  unfold State.commit; split <;> rfl
@[simp] theorem commit_opc (x y z : Int) (b : Bool) : (s.commit x y z b).opc = s.opc := by
  unfold State.commit; split <;> rfl
@[simp] theorem commit_doneIe (x y z : Int) (b : Bool) : (s.commit x y z b).doneIe = s.doneIe := by
  unfold State.commit; split <;> rfl
@[simp] theorem commit_work (x y z : Int) (b : Bool) : (s.commit x y z b).work = s.work := by
  unfold State.commit; split <;> rfl
@[simp] theorem commit_xpend (x y z : Int) (b : Bool) : (s.commit x y z b).xpend = s.xpend := by
  unfold State.commit; split <;> rfl
@[simp] theorem commit_xacc (x y z : Int) (b : Bool) : (s.commit x y z b).xacc = s.xacc := by
  unfold State.commit; split <;> rfl
@[simp] theorem commit_xrsp (x y z : Int) (b : Bool) : (s.commit x y z b).xrsp = s.xrsp := by
  unfold State.commit; split <;> rfl
@[simp] theorem commit_busReply (x y z : Int) (b : Bool) : (s.commit x y z b).busReply = s.busReply := by
  unfold State.commit; split <;> rfl
@[simp] theorem commit_host (x y z : Int) (b : Bool) : (s.commit x y z b).host = s.host := by
  unfold State.commit; split <;> rfl
@[simp] theorem commit_sched (x y z : Int) (b : Bool) : (s.commit x y z b).sched = s.sched := by
  unfold State.commit; split <;> rfl
@[simp] theorem commit_phase (x y z : Int) (b : Bool) : (s.commit x y z b).phase = .idle := by
  unfold State.commit; split <;> rfl

/-! ### issue and issueIllegal: a CMD write -/

@[simp] theorem issue_params (c : Command) : (s.issue c).params = s.params := by
  unfold State.issue; split <;> rfl
@[simp] theorem issue_rst (c : Command) : (s.issue c).rst = s.rst := by
  unfold State.issue; split <;> rfl
@[simp] theorem issue_opa (c : Command) : (s.issue c).opa = s.opa := by
  unfold State.issue; split <;> rfl
@[simp] theorem issue_opb (c : Command) : (s.issue c).opb = s.opb := by
  unfold State.issue; split <;> rfl
@[simp] theorem issue_opc (c : Command) : (s.issue c).opc = s.opc := by
  unfold State.issue; split <;> rfl
@[simp] theorem issue_res0 (c : Command) : (s.issue c).res0 = s.res0 := by
  unfold State.issue; split <;> rfl
@[simp] theorem issue_res1 (c : Command) : (s.issue c).res1 = s.res1 := by
  unfold State.issue; split <;> rfl
@[simp] theorem issue_res2 (c : Command) : (s.issue c).res2 = s.res2 := by
  unfold State.issue; split <;> rfl
@[simp] theorem issue_doneIe (c : Command) : (s.issue c).doneIe = s.doneIe := by
  unfold State.issue; split <;> rfl
@[simp] theorem issue_xpend (c : Command) : (s.issue c).xpend = s.xpend := by
  unfold State.issue; split <;> rfl
@[simp] theorem issue_xacc (c : Command) : (s.issue c).xacc = s.xacc := by
  unfold State.issue; split <;> rfl
@[simp] theorem issue_xrsp (c : Command) : (s.issue c).xrsp = s.xrsp := by
  unfold State.issue; split <;> rfl
@[simp] theorem issue_busReply (c : Command) : (s.issue c).busReply = s.busReply := by
  unfold State.issue; split <;> rfl
@[simp] theorem issue_host (c : Command) : (s.issue c).host = s.host := by
  unfold State.issue; split <;> rfl
@[simp] theorem issue_sched (c : Command) : (s.issue c).sched = s.sched := by
  unfold State.issue; split <;> rfl
@[simp] theorem issueIllegal_params (v : Word) : (s.issueIllegal v).params = s.params := by
  unfold State.issueIllegal; split <;> rfl
@[simp] theorem issueIllegal_rst (v : Word) : (s.issueIllegal v).rst = s.rst := by
  unfold State.issueIllegal; split <;> rfl
@[simp] theorem issueIllegal_opa (v : Word) : (s.issueIllegal v).opa = s.opa := by
  unfold State.issueIllegal; split <;> rfl
@[simp] theorem issueIllegal_opb (v : Word) : (s.issueIllegal v).opb = s.opb := by
  unfold State.issueIllegal; split <;> rfl
@[simp] theorem issueIllegal_opc (v : Word) : (s.issueIllegal v).opc = s.opc := by
  unfold State.issueIllegal; split <;> rfl
@[simp] theorem issueIllegal_res0 (v : Word) : (s.issueIllegal v).res0 = s.res0 := by
  unfold State.issueIllegal; split <;> rfl
@[simp] theorem issueIllegal_res1 (v : Word) : (s.issueIllegal v).res1 = s.res1 := by
  unfold State.issueIllegal; split <;> rfl
@[simp] theorem issueIllegal_res2 (v : Word) : (s.issueIllegal v).res2 = s.res2 := by
  unfold State.issueIllegal; split <;> rfl
@[simp] theorem issueIllegal_doneIe (v : Word) : (s.issueIllegal v).doneIe = s.doneIe := by
  unfold State.issueIllegal; split <;> rfl
@[simp] theorem issueIllegal_work (v : Word) : (s.issueIllegal v).work = s.work := by
  unfold State.issueIllegal; split <;> rfl
@[simp] theorem issueIllegal_phase (v : Word) : (s.issueIllegal v).phase = s.phase := by
  unfold State.issueIllegal; split <;> rfl
@[simp] theorem issueIllegal_xpend (v : Word) : (s.issueIllegal v).xpend = s.xpend := by
  unfold State.issueIllegal; split <;> rfl
@[simp] theorem issueIllegal_xacc (v : Word) : (s.issueIllegal v).xacc = s.xacc := by
  unfold State.issueIllegal; split <;> rfl
@[simp] theorem issueIllegal_xrsp (v : Word) : (s.issueIllegal v).xrsp = s.xrsp := by
  unfold State.issueIllegal; split <;> rfl
@[simp] theorem issueIllegal_busReply (v : Word) : (s.issueIllegal v).busReply = s.busReply := by
  unfold State.issueIllegal; split <;> rfl
@[simp] theorem issueIllegal_host (v : Word) : (s.issueIllegal v).host = s.host := by
  unfold State.issueIllegal; split <;> rfl
@[simp] theorem issueIllegal_sched (v : Word) : (s.issueIllegal v).sched = s.sched := by
  unfold State.issueIllegal; split <;> rfl

/-! ### writeTarget: STATUS, DONE_IE and the operand registers, nothing else -/

@[simp] theorem writeTarget_params (v : Word) (g : Target) : (writeTarget s v g).params = s.params := by
  cases g <;> simp [writeTarget]
@[simp] theorem writeTarget_rst (v : Word) (g : Target) : (writeTarget s v g).rst = s.rst := by
  cases g <;> simp [writeTarget]
@[simp] theorem writeTarget_res0 (v : Word) (g : Target) : (writeTarget s v g).res0 = s.res0 := by
  cases g <;> simp [writeTarget]
@[simp] theorem writeTarget_res1 (v : Word) (g : Target) : (writeTarget s v g).res1 = s.res1 := by
  cases g <;> simp [writeTarget]
@[simp] theorem writeTarget_res2 (v : Word) (g : Target) : (writeTarget s v g).res2 = s.res2 := by
  cases g <;> simp [writeTarget]
@[simp] theorem writeTarget_work (v : Word) (g : Target) : (writeTarget s v g).work = s.work := by
  cases g <;> simp [writeTarget]
@[simp] theorem writeTarget_phase (v : Word) (g : Target) : (writeTarget s v g).phase = s.phase := by
  cases g <;> simp [writeTarget]
@[simp] theorem writeTarget_xpend (v : Word) (g : Target) : (writeTarget s v g).xpend = s.xpend := by
  cases g <;> simp [writeTarget]
@[simp] theorem writeTarget_xacc (v : Word) (g : Target) : (writeTarget s v g).xacc = s.xacc := by
  cases g <;> simp [writeTarget]
@[simp] theorem writeTarget_xrsp (v : Word) (g : Target) : (writeTarget s v g).xrsp = s.xrsp := by
  cases g <;> simp [writeTarget]
@[simp] theorem writeTarget_busReply (v : Word) (g : Target) : (writeTarget s v g).busReply = s.busReply := by
  cases g <;> simp [writeTarget]
@[simp] theorem writeTarget_host (v : Word) (g : Target) : (writeTarget s v g).host = s.host := by
  cases g <;> simp [writeTarget]
@[simp] theorem writeTarget_sched (v : Word) (g : Target) : (writeTarget s v g).sched = s.sched := by
  cases g <;> simp [writeTarget]

/-! ### applyMove: the working registers, then what the move comes to -/

@[simp] theorem applyMove_params (mv : Move) : (s.applyMove mv).params = s.params := by
  unfold State.applyMove; cases mv.next <;> simp
@[simp] theorem applyMove_rst (mv : Move) : (s.applyMove mv).rst = s.rst := by
  unfold State.applyMove; cases mv.next <;> simp
@[simp] theorem applyMove_opa (mv : Move) : (s.applyMove mv).opa = s.opa := by
  unfold State.applyMove; cases mv.next <;> simp
@[simp] theorem applyMove_opb (mv : Move) : (s.applyMove mv).opb = s.opb := by
  unfold State.applyMove; cases mv.next <;> simp
@[simp] theorem applyMove_opc (mv : Move) : (s.applyMove mv).opc = s.opc := by
  unfold State.applyMove; cases mv.next <;> simp
@[simp] theorem applyMove_doneIe (mv : Move) : (s.applyMove mv).doneIe = s.doneIe := by
  unfold State.applyMove; cases mv.next <;> simp
@[simp] theorem applyMove_xrsp (mv : Move) : (s.applyMove mv).xrsp = s.xrsp := by
  unfold State.applyMove; cases mv.next <;> simp
@[simp] theorem applyMove_busReply (mv : Move) : (s.applyMove mv).busReply = s.busReply := by
  unfold State.applyMove; cases mv.next <;> simp
@[simp] theorem applyMove_host (mv : Move) : (s.applyMove mv).host = s.host := by
  unfold State.applyMove; cases mv.next <;> simp
@[simp] theorem applyMove_sched (mv : Move) : (s.applyMove mv).sched = s.sched := by
  unfold State.applyMove; cases mv.next <;> simp
@[simp] theorem applyMove_work (mv : Move) : (s.applyMove mv).work = mv.work := by
  unfold State.applyMove; cases mv.next <;> simp

end Sys2Proof.Machine
end

