-- ==== Sys2Proof/Laws/Ops.lean ====
section
/-! SUPPORT. What each shared operation can do, said once: a proof cites these and does not unfold
the operations again. -/

namespace Sys2Proof.Machine

/-! ### Decoding a command word -/

@[simp] theorem decodeCmd_word (c : Command) : decodeCmd c.word = .instr c.instr := by
  cases c <;> decide

/-- A command word that decodes is the word of the command it decodes to. -/
theorem decodeCmd_instr {v : Word} {i : Instr} (h : decodeCmd v = .instr i) :
    ∃ c : Command, i = c.instr ∧ v = c.word := by
  unfold decodeCmd at h
  split at h
  · cases h
  · rename_i hz
    have hsplit : v = cmdRsv v ++ cmdOp v := by
      apply BitVec.eq_of_getLsbD_eq
      intro k hk
      simp only [cmdRsv, cmdOp, BitVec.getLsbD_append, BitVec.getLsbD_extractLsb']
      by_cases h4 : k < 4
      · simp [h4]
      · simp [h4, show k - 4 < 28 by omega, show 4 + (k - 4) = k by omega]
    have hop : ∀ c : Command, (cmdOp v).toNat = c.op.toNat → v = c.word := by
      intro c hc
      rw [hsplit, Command.word, BitVec.eq_of_toNat_eq hc, Decidable.not_not.mp hz]
    split at h
    · rename_i h1; exact ⟨.isprime, (by cases h; rfl), hop .isprime h1⟩
    · rename_i h1; exact ⟨.egcd, (by cases h; rfl), hop .egcd h1⟩
    · rename_i h1; exact ⟨.modinv, (by cases h; rfl), hop .modinv h1⟩
    · rename_i h1; exact ⟨.modpow, (by cases h; rfl), hop .modpow h1⟩
    · cases h

/-! ### The meanings -/

/-- A command's meaning is the CMD write of R122. -/
@[simp] theorem exec_command (c : Command) (s : State) : exec c.instr s = .next (s.issue c) := by
  cases c <;> rfl

/-- A port instruction's meaning is the response of R100. -/
@[simp] theorem exec_request (r : Request) (s : State) :
    exec r.instr s = .next (s.respond r.result) := by
  obtain ⟨op, x, y⟩ := r
  cases op <;> rfl

theorem issue_of_running {s : State} (c : Command) (h : s.phase.running = true) :
    s.issue c = s.overrun := by
  simp [State.issue, h]

theorem issue_of_idle {s : State} (c : Command) (h : s.phase = .idle) :
    s.issue c = s.accept c := by
  simp [State.issue, h, Phase.running]

/-- A CMD write always has a next state: an acceptance, an illegal command, or an overrun (R122). -/
theorem commandWrite_cases (v : Word) (s : State) :
    (∃ c : Command, v = c.word ∧ commandWrite exec v s = .next (s.issue c)) ∨
    ((∀ c : Command, v ≠ c.word) ∧ commandWrite exec v s = .next (s.issueIllegal v)) := by
  unfold commandWrite
  cases h : decodeCmd v with
  | instr i =>
    obtain ⟨c, rfl, rfl⟩ := decodeCmd_instr h
    exact .inl ⟨c, rfl, exec_command c s⟩
  | illegal e =>
    refine .inr ⟨fun c hc => ?_, rfl⟩
    rw [hc, decodeCmd_word] at h
    cases h

/-! ### Ends of a command -/

/-- A commit writes its three values, or raises RESULT_RANGE (R126, R128). -/
theorem commit_cases (s : State) (x y z : Int) (b : Bool) :
    (fitsW s.params.w x = true ∧ fitsW s.params.w y = true ∧ fitsW s.params.w z = true ∧
      s.commit x y z b =
        { s with
          res0   := wordsOf s.params x
          res1   := wordsOf s.params y
          res2   := wordsOf s.params z
          status := s.status.committed b
          phase  := .idle }) ∨
    s.commit x y z b = s.raiseError .resultRange := by
  unfold State.commit
  split
  · rename_i h
    simp only [Bool.and_eq_true] at h
    exact .inl ⟨h.1.1, h.1.2, h.2, rfl⟩
  · exact .inr rfl

/-- What a sequencer step comes to (R107, R126, R127). -/
theorem applyMove_cases (s : State) (mv : Move) :
    (∃ l, mv.next = .goto l ∧ s.applyMove mv = { s with work := mv.work, phase := .run l }) ∨
    (∃ op x y, mv.next = .call op x y ∧
      s.applyMove mv =
        { s with work := mv.work, xpend := some { op := op, x := x, y := y }, xacc := false }) ∨
    (∃ x y z b, mv.next = .commit x y z b ∧
      s.applyMove mv = { s with work := mv.work }.commit x y z b) ∨
    (∃ e, mv.next = .raise e ∧ s.applyMove mv = { s with work := mv.work }.raiseError e) := by
  unfold State.applyMove
  cases h : mv.next with
  | goto l         => exact .inl ⟨l, rfl, rfl⟩
  | call op x y    => exact .inr (.inl ⟨op, x, y, rfl, rfl⟩)
  | commit x y z b => exact .inr (.inr (.inl ⟨x, y, z, b, rfl, rfl⟩))
  | raise e        => exact .inr (.inr (.inr ⟨e, rfl, rfl⟩))

/-! ### Turns -/

/-- A turn of the engine always has a next state, and it is one of these (R33, R107, R130). -/
theorem engineTurn_cases (s : State) :
    (s.rst = true ∧ engineTurn exec s = .next s) ∨
    (s.rst = false ∧ ∃ r, s.xpend = some r ∧ s.xrsp = none ∧
      ((s.xacc = false ∧ engineTurn exec s = .next s.acceptRequest) ∨
       (s.xacc = true ∧ engineTurn exec s = .next (s.respond r.result)))) ∨
    (s.rst = false ∧ s.phase = .idle ∧ s.xpend = none ∧ s.xrsp = none ∧
      engineTurn exec s = .next s) ∨
    (s.rst = false ∧ s.phase = .idle ∧ (∃ v, s.xrsp = some v) ∧
      engineTurn exec s = .next s.takeResponse) ∨
    (s.rst = false ∧ ∃ l, s.phase = .run l ∧
      ((∃ v, s.xrsp = some v ∧
          engineTurn exec s = .next (s.takeResponse.applyMove (resumeStep l v s.work))) ∨
       (s.xpend = none ∧ s.xrsp = none ∧
          engineTurn exec s = .next (s.applyMove (startStep l s.work))))) := by
  unfold engineTurn
  cases hrst : s.rst with
  | true => simp
  | false =>
    cases hx : s.xpend <;> cases hr : s.xrsp <;> cases hp : s.phase <;> cases ha : s.xacc <;>
      simp [State.sequencerTurn, hp, hr]

/-- A host access that has a next state: the bus error of R65, a CMD write, a write to another word,
or a read. -/
theorem portAccess_cases {a : Access} {s t : State} (h : portAccess exec a s = .next t) :
    s.rst = false ∧
    ((a.legal = false ∧ t = s.busError a) ∨
     (a.legal = true ∧ a.we = true ∧ s.targetOf a = .cmd ∧
        commandWrite exec a.wdata { s with busReply := .wrote .okay } = .next t) ∨
     (a.legal = true ∧ a.we = true ∧ s.targetOf a ≠ .cmd ∧
        t = writeTarget { s with busReply := .wrote .okay } a.wdata (s.targetOf a)) ∨
     (a.legal = true ∧ a.we = false ∧
        t = { s with busReply := .read .okay (readTarget s (s.targetOf a)) })) := by
  unfold portAccess at h
  cases hrst : s.rst with
  | true => simp [hrst] at h
  | false =>
    refine ⟨rfl, ?_⟩
    cases hl : a.legal <;> cases hw : a.we <;> simp only [hrst, hl, hw] at h ⊢ <;>
      by_cases hc : s.targetOf a = .cmd <;> simp_all

/-- With reset released, a host access always has a next state (R65, R66, R122). -/
theorem portAccess_next (a : Access) {s : State} (h : s.rst = false) :
    ∃ t, portAccess exec a s = .next t := by
  unfold portAccess
  rw [if_neg (by simp [h])]
  split
  · exact ⟨_, rfl⟩
  · split
    · split
      · rcases commandWrite_cases a.wdata { s with busReply := .wrote .okay } with
          ⟨c, -, hc⟩ | ⟨-, hc⟩ <;> exact ⟨_, hc⟩
      · exact ⟨_, rfl⟩
    · exact ⟨_, rfl⟩

/-- What a host does with an answer changes the host only. -/
theorem afterAccess_eq (st : HostStmt) (s : State) :
    afterAccess st s = { s with host := (afterAccess st s).host } := by
  cases st <;> rfl

/-- The accesses of a host program use all four byte lanes (R64). -/
theorem stmtAccess_legal {p : Params} {st : HostStmt} {a : Access} (h : stmtAccess p st = some a) :
    a.legal = (a.addr.extractLsb' 0 2 == 0#2) := by
  cases st <;> simp only [stmtAccess, wrAccess, rdAccess, windowAccess, reduceCtorEq] at h <;>
    split at h <;> cases h <;> simp [Access.legal]

/-- A line of the host that has a next state changes the host only, or makes one access and then
changes the host only (R90). -/
theorem hostLine_cases {st : HostStmt} {s t : State} (h : hostLine exec st s = .next t) :
    (∃ hst, t = { s with host := hst }) ∨
    (∃ a u hst, a.legal = (a.addr.extractLsb' 0 2 == 0#2) ∧
      portAccess exec a (s.hostAt (s.host.pc + 1)) = .next u ∧ t = { u with host := hst }) := by
  unfold hostLine at h
  split at h
  · cases h; exact .inl ⟨_, rfl⟩
  · cases h
  · split at h
    · cases h
    · split at h
      · rename_i a ha _ u hu
        cases h
        exact .inr ⟨a, u, _, stmtAccess_legal ha, hu, afterAccess_eq st u⟩
      · cases h
      · cases h

/-- A turn of the host that has a next state: no line is left, or one line is performed. -/
theorem hostTurn_cases {s t : State} (h : hostTurn exec s = .next t) :
    t = s ∨ ∃ st, s.host.prog[s.host.pc]? = some st ∧ hostLine exec st s = .next t := by
  unfold hostTurn at h
  split at h
  · cases h; exact .inl rfl
  · exact .inr ⟨_, ‹_›, h⟩

/-- A turn of the host that makes no access changes the host only. -/
theorem hostTurn_of_quiet (run : Instr → State → Out) {s : State} {h : HostAgent}
    (hq : quietTurn s.params s.host = some h) : hostTurn run s = .next { s with host := h } := by
  unfold quietTurn at hq
  unfold hostTurn
  split at hq
  · cases hq; rfl
  · simp only [hostLine]
    split at hq <;> cases hq
    rfl

/-- What is closed under the host's turns without an access is quiet for ever: how to show that a
program has ended (R132). -/
theorem quietFor_of_closed {p : Params} (P : HostAgent → Prop)
    (hP : ∀ h, P h → ∃ h', quietTurn p h = some h' ∧ P h') {h : HostAgent} (h0 : P h) (n : Nat) :
    quietFor p n h = true := by
  induction n generalizing h with
  | zero => rfl
  | succ n ih =>
    obtain ⟨h', hq, h1⟩ := hP h h0
    simp only [quietFor, hq, ih h1]

/-- A program that is past its last line makes no access. -/
theorem quietFor_past_end {p : Params} {h : HostAgent} (hpc : h.prog.length ≤ h.pc) (n : Nat) :
    quietFor p n h = true :=
  quietFor_of_closed (· = h) (by rintro _ rfl; exact ⟨_, by simp [quietTurn, hpc], rfl⟩) rfl n

/-- A program that has ended stays ended through a turn of the host, which changes the host only. -/
theorem hostEnded_turn (run : Instr → State → Out) {s : State} (h : s.hostEnded) :
    ∃ a, hostTurn run s = .next { s with host := a } ∧ State.hostEnded { s with host := a } := by
  cases hq : quietTurn s.params s.host with
  | none => exact absurd (h.2 1) (by simp [quietFor, hq])
  | some a =>
    refine ⟨a, hostTurn_of_quiet run hq, h.1, fun n => ?_⟩
    simpa [quietFor, hq] using h.2 (n + 1)

/-- `AND` of R90, bit by bit: it is the AND of the two's-complement patterns without end. -/
theorem intAnd_testBit (x y : Int) (k : Nat) :
    (intAnd x y).testBit k = (x.testBit k && y.testBit k) := by
  cases x <;> cases y <;> simp [intAnd, Int.testBit] <;> cases Nat.testBit _ k <;> simp

/-- On two words, `AND` of R90 is the AND of the words. -/
theorem intAnd_word (x y : Word) : intAnd x.toNat y.toNat = (x &&& y).toNat := by
  rw [BitVec.toNat_and]; rfl

/-- A step is the move of the next turn (R20, R70). -/
theorem step_eq (s : State) : step s = takeTurn exec s.nextTurn s.popTurn := rfl

end Sys2Proof.Machine
end

