-- ==== Sys2Proof/Laws/Sequencer.lean ====
section
/-! SUPPORT. The sequencer's steps: which of them issue a request, and that each hands its successor
what `LabelOk` says the successor may rely on. A proof about runs cites these and does not unfold the
step sequences again. -/

namespace Sys2Proof.Machine

/-! ### The primitives on positive divisors (R104, R105, R109) -/

theorem primDiv_of_pos (x : Int) {y : Int} (h : 0 < y) : primDiv x y = x / y := by
  rw [primDiv, if_pos h, Int.fdiv_eq_ediv_of_nonneg _ h.le]

theorem primMod_of_pos (x : Int) {y : Int} (h : 0 < y) : primMod x y = x % y := by
  rw [primMod, if_pos h, Int.fmod_eq_emod_of_nonneg _ h.le]

theorem primMod_range (x : Int) {y : Int} (h : 0 < y) : 0 ≤ primMod x y ∧ primMod x y < y := by
  rw [primMod_of_pos x h]
  exact ⟨Int.emod_nonneg _ (by omega), Int.emod_lt_of_pos _ h⟩

theorem primMod_eq_sub (x : Int) {y : Int} (h : 0 < y) : primMod x y = x - primDiv x y * y := by
  rw [primMod_of_pos x h, primDiv_of_pos x h, Int.emod_def, mul_comm]

/-! ### EGCD_CORE -/

/-- A step of the loop without a CALL hands on what its successor may rely on. -/
theorem coreStart_goto {w w' : Work} {l l' : CoreLabel} (h : CoreOk w l) (hm : 0 ≤ w.m)
    (hs : coreStart l w = (w', .goto l')) : CoreOk w' l' ∧ w'.m = w.m := by
  cases l
  case e0 =>
    simp only [coreStart, Prod.mk.injEq, CoreNext.goto.injEq] at hs
    obtain ⟨rfl, rfl⟩ := hs
    simpa [CoreOk] using hm
  case e1 =>
    simp only [coreStart] at hs
    split at hs <;> cases hs
    exact ⟨⟨lt_of_le_of_ne h.1 (Ne.symm ‹_›), h.2⟩, rfl⟩
  all_goals cases hs

/-- A step of the loop with a CALL hands on what its successor may rely on, once it has its
response. -/
theorem coreResume_goto {w w' : Work} {l l' : CoreLabel} {r : Request} (h : CoreOk w l)
    (hq : coreStart l w = (w, .call r.op r.x r.y))
    (hs : coreResume l r.result w = (w', .goto l')) : CoreOk w' l' ∧ w'.m = w.m := by
  obtain ⟨op, x, y⟩ := r
  cases l
  case e0 => simp [coreStart] at hq
  case e1 => simp only [coreStart] at hq; split at hq <;> cases hq
  all_goals
    simp only [coreStart, Prod.mk.injEq, CoreNext.call.injEq, true_and] at hq
    obtain ⟨h1, h2, h3⟩ := hq
    subst h1 h2 h3
    simp only [coreResume, Request.result, Prod.mk.injEq, CoreNext.goto.injEq] at hs
    obtain ⟨hw, hl⟩ := hs
    subst hw hl
    refine ⟨?_, rfl⟩
    simp only [CoreOk] at h ⊢
  case e2 =>
    obtain ⟨h0, h1, h2⟩ := h
    exact ⟨h0, h1, h2, by rw [primDiv, if_pos h0]⟩
  case e3 =>
    obtain ⟨h0, h1, h2, h3⟩ := h
    have hr := primMod_range w.r0 h0
    exact ⟨h0, h1, h2, hr.1, hr.2, by rw [primMod_eq_sub _ h0, h3, primDiv, if_pos h0]⟩
  case e4 =>
    obtain ⟨h0, h1, h2, h3, h4, h5⟩ := h
    exact ⟨h0, h1, h2, h3, h4, h5, rfl⟩
  case e5 =>
    obtain ⟨h0, h1, h2, h3, h4, h5, h6⟩ := h
    refine ⟨h0, h2, h3, h4, ?_⟩
    rw [h5, primSub, h6, h1]
    linear_combination (-w.q) * h2
  case e6 => exact h
  case e7 =>
    obtain ⟨h0, h1, h2, h3, h4⟩ := h
    exact ⟨h2, h1, h4⟩

/-! ### All commands -/

/-- Beginning a step either ends the command, or goes to a step of the same command that may rely on
what `LabelOk` says, or issues a request and leaves the working registers alone. -/
theorem startStep_goto {w w' : Work} {l l' : StepLabel} (h : LabelOk w l)
    (hs : startStep l w = ⟨w', .goto l'⟩) : LabelOk w' l' ∧ l'.command = l.command := by
  cases l with
  | isprime l =>
    cases l <;> simp only [startStep, isprimeStart] at hs <;> (try split_ifs at hs) <;> cases hs
    simp only [LabelOk, StepLabel.command, and_true]
    omega
  | egcd l =>
    cases l with
    | g0 =>
      simp only [startStep, egcdStart] at hs
      split_ifs at hs <;> cases hs
      simp only [inG1, LabelOk, CoreOk, StepLabel.command, and_true]
      omega
    | g1 l =>
      rcases hc : coreStart l w with ⟨wc, nc⟩
      simp only [startStep, egcdStart, hc, liftCore] at hs
      cases nc with
      | goto lc =>
        cases hs
        obtain ⟨h1, h2⟩ := coreStart_goto h.2 h.1 hc
        exact ⟨⟨h2 ▸ h.1, h1⟩, rfl⟩
      | call op x y => cases hs
      | ret =>
        cases hs
        cases l <;> simp only [coreStart] at hc <;> (try split_ifs at hc) <;> cases hc
        exact ⟨⟨h.1, h.2.2.1⟩, rfl⟩
    | g2 => cases hs
  | modinv l =>
    cases l with
    | i0 =>
      simp only [startStep, modinvStart] at hs
      split_ifs at hs <;> cases hs
      simp only [inI1, LabelOk, CoreOk, StepLabel.command, and_true]
      omega
    | i1 l =>
      rcases hc : coreStart l w with ⟨wc, nc⟩
      simp only [startStep, modinvStart, hc, liftCore] at hs
      cases nc with
      | goto lc =>
        cases hs
        obtain ⟨h1, h2⟩ := coreStart_goto h.2 h.1.le hc
        exact ⟨⟨h2 ▸ h.1, h1⟩, rfl⟩
      | call op x y => cases hs
      | ret =>
        cases hs
        cases l <;> simp only [coreStart] at hc <;> (try split_ifs at hc) <;> cases hc
        exact ⟨⟨h.1, h.2.2.1⟩, rfl⟩
    | i2 =>
      simp only [startStep, modinvStart] at hs
      split_ifs at hs with h1 <;> cases hs
      exact ⟨⟨h.1, (not_not.mp h1) ▸ h.2⟩, rfl⟩
    | _ => cases hs
  | modpow l =>
    cases l <;> simp only [startStep, modpowStart] at hs <;> (try split_ifs at hs) <;> cases hs <;>
      simp only [LabelOk, StepLabel.command, and_true] at h ⊢ <;> omega

/-- Finishing a step with the exact response goes to a step of the same command that may rely on what
`LabelOk` says. -/
theorem resumeStep_goto {w w' : Work} {l l' : StepLabel} {r : Request} (h : LabelOk w l)
    (hq : startStep l w = ⟨w, .call r.op r.x r.y⟩)
    (hs : resumeStep l r.result w = ⟨w', .goto l'⟩) : LabelOk w' l' ∧ l'.command = l.command := by
  cases l with
  | isprime l =>
    obtain ⟨op, x, y⟩ := r
    cases l
    case s0 => simp only [startStep, isprimeStart] at hq; split_ifs at hq <;> cases hq
    all_goals
      simp only [startStep, isprimeStart, Move.mk.injEq, Next.call.injEq, true_and] at hq
      obtain ⟨h1, h2, h3⟩ := hq
      subst h1 h2 h3
      simp only [resumeStep, isprimeResume] at hs
      (try split_ifs at hs) <;> simp only [Move.mk.injEq, Next.goto.injEq, reduceCtorEq, and_false] at hs
      obtain ⟨hw, hl⟩ := hs
      subst hw hl
      simp only [Request.result, primAdd, primMul, LabelOk, StepLabel.command, and_true, true_or] at *
      omega
  | egcd l =>
    cases l with
    | g1 l =>
      rcases hc : coreStart l w with ⟨wc, nc⟩
      rcases hd : coreResume l r.result w with ⟨wd, nd⟩
      simp only [startStep, egcdStart, resumeStep, egcdResume, hc, hd, liftCore] at hq hs
      cases nc <;> cases hq
      cases nd with
      | goto ld =>
        cases hs
        obtain ⟨h1, h2⟩ := coreResume_goto h.2 hc hd
        exact ⟨⟨h2 ▸ h.1, h1⟩, rfl⟩
      | call op x y => cases hs
      | ret => cases l <;> cases hd
    | g0 => simp only [startStep, egcdStart] at hq; split_ifs at hq <;> cases hq
    | g2 => cases hq
  | modinv l =>
    cases l with
    | i1 l =>
      rcases hc : coreStart l w with ⟨wc, nc⟩
      rcases hd : coreResume l r.result w with ⟨wd, nd⟩
      simp only [startStep, modinvStart, resumeStep, modinvResume, hc, hd, liftCore] at hq hs
      cases nc <;> cases hq
      cases nd with
      | goto ld =>
        cases hs
        obtain ⟨h1, h2⟩ := coreResume_goto h.2 hc hd
        exact ⟨⟨h2 ▸ h.1, h1⟩, rfl⟩
      | call op x y => cases hs
      | ret => cases l <;> cases hd
    | i0 => simp only [startStep, modinvStart] at hq; split_ifs at hq <;> cases hq
    | i2 => simp only [startStep, modinvStart] at hq; split_ifs at hq <;> cases hq
    | i3 =>
      obtain ⟨op, x, y⟩ := r
      simp only [startStep, modinvStart, Move.mk.injEq, Next.call.injEq, true_and] at hq
      obtain ⟨h1, h2, h3⟩ := hq
      subst h1 h2 h3
      simp only [resumeStep, modinvResume, Move.mk.injEq, Next.goto.injEq] at hs
      obtain ⟨hw, hl⟩ := hs
      subst hw hl
      obtain ⟨h0, h1⟩ := h
      have hr := primMod_range w.s0 h0
      refine ⟨⟨h0, hr.1, hr.2, ?_⟩, rfl⟩
      simp only [Request.result, primMod_of_pos _ h0]
      conv_rhs => rw [h1]
      simp [Int.mul_emod, Int.add_mul_emod_self_left]
    | i4 =>
      obtain ⟨op, x, y⟩ := r
      simp only [startStep, modinvStart, Move.mk.injEq, Next.call.injEq, true_and] at hq
      obtain ⟨h1, h2, h3⟩ := hq
      subst h1 h2 h3
      simp only [resumeStep, modinvResume, Move.mk.injEq, Next.goto.injEq] at hs
      obtain ⟨hw, hl⟩ := hs
      subst hw hl
      obtain ⟨h0, h1, h2, h3⟩ := h
      simp only [LabelOk, Request.result, primAdd, StepLabel.command, and_true]
      refine ⟨h0, by omega, by omega, ?_⟩
      rw [mul_add, Int.add_mul_emod_self_right, h3]
    | i5 =>
      obtain ⟨op, x, y⟩ := r
      simp only [startStep, modinvStart, Move.mk.injEq, Next.call.injEq, true_and] at hq
      obtain ⟨h1, h2, h3⟩ := hq
      subst h1 h2 h3
      simp only [resumeStep, modinvResume, Move.mk.injEq, Next.goto.injEq] at hs
      obtain ⟨hw, hl⟩ := hs
      subst hw hl
      obtain ⟨h0, h1, h2, h3⟩ := h
      have hr := primMod_range w.u h0
      refine ⟨⟨h0, hr.1, hr.2, ?_⟩, rfl⟩
      simp only [Request.result, primMod_of_pos _ h0]
      rw [← h3]
      simp [Int.mul_emod]
    | i6 => cases hq
  | modpow l =>
    obtain ⟨op, x, y⟩ := r
    have hr : ∀ x m : Int, 1 < m → 0 ≤ primMod x m ∧ primMod x m < m :=
      fun x m hm => primMod_range x (by omega)
    cases l
    case p0 => simp only [startStep, modpowStart] at hq; split_ifs at hq <;> cases hq
    case p2 => simp only [startStep, modpowStart] at hq; split_ifs at hq <;> cases hq
    all_goals
      simp only [startStep, modpowStart, Move.mk.injEq, Next.call.injEq, true_and] at hq
      obtain ⟨h1, h2, h3⟩ := hq
      subst h1 h2 h3
      simp only [resumeStep, modpowResume, Request.result, primMul, Move.mk.injEq,
        Next.goto.injEq] at hs
      obtain ⟨hw, hl⟩ := hs
      subst hw hl
      simp only [LabelOk, StepLabel.command, and_true, halve] at h ⊢
    case p1 => have := hr w.b w.m h.1; omega
    case p3 => exact ⟨h.1, h.2.1, h.2.2.1, h.2.2.2.1⟩
    case p4 => have := hr w.t w.m h.1; omega
    case p5 => exact ⟨h.1, h.2.1, trivial, h.2.2.2.2⟩
    case p6 => have := hr w.t w.m h.1; omega

/-- Issuing a request leaves the working registers alone. -/
theorem startStep_call_work {l : StepLabel} {w w' : Work} {op : PrimOp} {x y : Int}
    (h : startStep l w = ⟨w', .call op x y⟩) : w' = w := by
  rcases l with l | (_ | l | _) | (_ | l | _ | _ | _ | _ | _) | l <;> try cases l
  all_goals
    simp only [startStep, isprimeStart, egcdStart, modinvStart, modpowStart, coreStart, liftCore]
      at h
    (try split_ifs at h) <;> cases h <;> rfl

/-- Finishing a step never issues a request: the next one is issued in a turn of its own. -/
theorem resumeStep_ne_call (l : StepLabel) (v : Int) (w w' : Work) (op : PrimOp) (x y : Int) :
    resumeStep l v w ≠ ⟨w', .call op x y⟩ := by
  intro h
  rcases l with l | (_ | l | _) | (_ | l | _ | _ | _ | _ | _) | l <;> try cases l
  all_goals
    simp only [resumeStep, isprimeResume, egcdResume, modinvResume, modpowResume, coreResume,
      liftCore] at h
    (try split_ifs at h) <;> cases h

/-! ### Words of a register (R63) -/

@[simp] theorem natToWords_length (k v : Nat) : (natToWords k v).length = k := by
  induction k generalizing v with
  | zero => rfl
  | succ k ih => simp [natToWords, ih]

@[simp] theorem wordsOf_length (p : Params) (v : Int) : (wordsOf p v).length = p.nw :=
  natToWords_length _ _

/-- The `k` lowest words of a number hold it modulo 2^(32k). -/
theorem wordsToNat_natToWords (k v : Nat) : wordsToNat (natToWords k v) = v % 2 ^ (32 * k) := by
  induction k generalizing v with
  | zero => simp [natToWords, wordsToNat, Nat.mod_one]
  | succ k ih =>
    rw [natToWords, wordsToNat, ih, BitVec.toNat_ofNat, show 32 * (k + 1) = 32 + 32 * k by ring,
      pow_add, Nat.mod_mul]

end Sys2Proof.Machine
end

