-- ==== Sys2Proof/Laws/Invariant.lean ====
section
/-! SUPPORT. What the invariant does and does not depend on. -/

namespace Sys2Proof.Machine

/-- The invariant is about the block: the environment's fields and the answer on the bus are free. -/
theorem inv_env {s : State} (h : Inv s) (r : BusReply) (a : HostAgent) (ts : List Turn) :
    Inv { s with busReply := r, host := a, sched := ts } where
  params   := h.params
  lengths  := h.lengths
  busy     := h.busy
  clean    := h.clean
  lastOp   := h.lastOp
  idlePort := h.idlePort
  request  := h.request
  accepted := h.accepted
  response := h.response
  label    := h.label
  inReset  := h.inReset

/-- While a command runs, reset is released. -/
theorem inv_rst_of_running {s : State} (h : Inv s) (hr : s.phase.running = true) :
    s.rst = false := by
  cases hs : s.rst with
  | false => rfl
  | true => rw [(h.inReset hs).1] at hr; cases hr

/-- A request stands on the port only while a command runs. -/
theorem inv_running_of_xpend {s : State} {r : Request} (h : Inv s) (hr : s.xpend = some r) :
    ∃ l, s.phase = .run l := by
  cases hp : s.phase with
  | run l => exact ⟨l, rfl⟩
  | idle  => rw [(h.idlePort hp).1] at hr; cases hr

end Sys2Proof.Machine
end

