-- ==== Sys2Proof/Laws/PerInstr.lean ====
section
/-! SUPPORT. Facts about every instruction as syntax, one lemma per constructor: the operation code
stands in its field with the number spec/opcode_table.json gives it. -/

namespace Sys2Proof.Laws

/-- The field a `++` puts on top. -/
theorem extractLsb'_append_top {a b c : Nat} (x : BitVec a) (y : BitVec b) (z : BitVec c) :
    (x ++ y ++ z).extractLsb' (c + b) a = x := by
  apply BitVec.eq_of_getLsbD_eq
  intro i hi
  simp only [BitVec.getLsbD_extractLsb', BitVec.getLsbD_append]
  have h1 : ¬ c + b + i < c := by omega
  have h2 : ¬ c + b + i - c < b := by omega
  have h3 : c + b + i - c - b = i := by omega
  simp [hi, h1, h2, h3]

namespace OpcodeInField

/-- "match" of a row of spec/opcode_table.json. -/
def tableMatch : Instr → Nat
  | .isprime => 0x00000001
  | .egcd    => 0x00000002
  | .modinv  => 0x00000003
  | .modpow  => 0x00000004
  | .add _ _ => 0b000
  | .sub _ _ => 0b001
  | .mul _ _ => 0b010
  | .div _ _ => 0b011
  | .mod _ _ => 0b100

/-- The bits that a row's "mask" covers: the whole CMD word (R82), or x_req_op (R83). -/
def fixedBits {ww : Nat} : Encoded ww → Nat
  | .cmd32 v => v.toNat
  | .xreq v  => (v.extractLsb' (ww + ww) 3).toNat

/-- The encoder puts the row's "match" where its "mask" is. -/
def Statement (i : Instr) : Prop := ∀ ww : Nat, fixedBits (encode ww i) = tableMatch i

theorem isprime : Statement .isprime := fun _ => rfl

theorem egcd : Statement .egcd := fun _ => rfl

theorem modinv : Statement .modinv := fun _ => rfl

theorem modpow : Statement .modpow := fun _ => rfl

/-- Of a request, the field is the code of its operation. -/
theorem request (ww : Nat) (op : PrimOp) (x y : Int) :
    fixedBits (.xreq (encodeReq ww op x y)) = op.code.toNat := by
  simp only [fixedBits, encodeReq, extractLsb'_append_top]

theorem add (x y : Int) : Statement (.add x y) := fun ww => request ww .add x y

theorem sub (x y : Int) : Statement (.sub x y) := fun ww => request ww .sub x y

theorem mul (x y : Int) : Statement (.mul x y) := fun ww => request ww .mul x y

theorem div (x y : Int) : Statement (.div x y) := fun ww => request ww .div x y

theorem mod (x y : Int) : Statement (.mod x y) := fun ww => request ww .mod x y

end OpcodeInField

end Sys2Proof.Laws
end

