-- ==== Sys2Proof/Tests/Slice0.lean ====
section
/-! SUPPORT. Tests: each is about one step or one operation, and its expected value comes from the
spec (the section is named). At the end, one witness per statement that has hypotheses. -/

namespace Sys2Proof.Tests

open Sys2Proof.Machine

/-! ### Helpers -/

/-- An idle block of W = 32 with the given operand words. -/
def demo (a b c : Word) : State := { State.reset with opa := [a], opb := [b], opc := [c] }

/-- A block of W = 32 that runs at a label with the given working registers. -/
def running (l : StepLabel) (w : Work) : State :=
  { State.reset with
    phase := .run l, work := w
    status := { Status.atReset with busy := true, lastOp := l.command.op } }

/-- The next state, if there is one. -/
def nextOf : Out → Option State
  | .next t    => some t
  | .fault _   => none
  | .refused _ => none

/-- What a field is after an outcome. -/
def after {α : Type} (o : Out) (f : State → α) : Option α := (nextOf o).map f

/-- A write access to an offset. -/
def wr (o : BitVec 12) (v : Word) : Access := { we := true, addr := o, be := 0b1111#4, wdata := v }

/-- A read access to an offset. -/
def rd (o : BitVec 12) : Access := { we := false, addr := o, be := 0b1111#4, wdata := 0#32 }

/-- Working registers that hold only an ISPRIME operand. -/
def workN (n : Int) : Work := { Work.atReset with n := n }

/-! ### WellFormed refuses what has no encoding (30 R83) -/

theorem test_wf_refuses_wide_x : (Instr.add 128 0).wellFormed 8 = false := by decide
theorem test_wf_refuses_low_x : (Instr.sub (-129) 0).wellFormed 8 = false := by decide
theorem test_wf_refuses_wide_y : (Instr.mul 0 128).wellFormed 8 = false := by decide
theorem test_wf_refuses_div_operand : (Instr.div 0 (-129)).wellFormed 8 = false := by decide
theorem test_wf_refuses_mod_operand : (Instr.mod 300 5).wellFormed 8 = false := by decide

/-! ### Decoding, words written out from 30 R80 to R83 -/

theorem test_decode_isprime :
    decodeCmd 0b00000000000000000000000000000001#32 = .instr .isprime := by decide
theorem test_decode_egcd :
    decodeCmd 0b00000000000000000000000000000010#32 = .instr .egcd := by decide
theorem test_decode_modinv :
    decodeCmd 0b00000000000000000000000000000011#32 = .instr .modinv := by decide
theorem test_decode_modpow :
    decodeCmd 0b00000000000000000000000000000100#32 = .instr .modpow := by decide
theorem test_decode_zero_is_illegal : decodeCmd 0#32 = .illegal .reservedOp := by decide
theorem test_decode_five_is_illegal : decodeCmd 5#32 = .illegal .reservedOp := by decide
theorem test_decode_rsv_is_illegal : decodeCmd 0x11#32 = .illegal .reservedBits := by decide
/-- x_req_op, then x = -3 and y = 5 in four bits each. -/
theorem test_decode_add : decodeReq (ww := 4) 0b00011010101#11 = .instr (.add (-3) 5) := by decide
theorem test_decode_sub : decodeReq (ww := 4) 0b00111010101#11 = .instr (.sub (-3) 5) := by decide
theorem test_decode_mul : decodeReq (ww := 4) 0b01011010101#11 = .instr (.mul (-3) 5) := by decide
theorem test_decode_div : decodeReq (ww := 4) 0b01111010101#11 = .instr (.div (-3) 5) := by decide
theorem test_decode_mod : decodeReq (ww := 4) 0b10011010101#11 = .instr (.mod (-3) 5) := by decide
theorem test_decode_code_five :
    decodeReq (ww := 4) 0b10111010101#11 = .illegal .reservedPrimCode := by decide
theorem test_table_word_modpow : decodeTableWord 32 4 = some .modpow := by decide
theorem test_table_word_mod : decodeTableWord 8 4 = some (.mod 0 0) := by decide
theorem test_table_word_refused : decodeTableWord 8 5 = none ∧ decodeTableWord 32 5 = none := by
  decide

/-! ### Placing an instruction -/

theorem test_fetch_command :
    after (step (State.reset.withFetchWord 32 2)) (·.phase) = some (.run (.egcd .g0)) := by decide
theorem test_fetch_request :
    after (step (State.reset.withFetchWord 8 0)) (·.xrsp) = some (some 0) := by decide

/-! ### The primitive unit (95 L2.6) -/

theorem test_add : after (exec (.add (-128) 127) State.reset) (·.xrsp) = some (some (-1)) := by
  decide
theorem test_sub : after (exec (.sub (-53) 160) State.reset) (·.xrsp) = some (some (-213)) := by
  decide
theorem test_mul : after (exec (.mul (-128) 127) State.reset) (·.xrsp) = some (some (-16256)) := by
  decide
theorem test_div : after (exec (.div (-128) 127) State.reset) (·.xrsp) = some (some (-2)) := by
  decide
theorem test_mod : after (exec (.mod (-3) 5) State.reset) (·.xrsp) = some (some 2) := by decide

/-! ### The window (95 L2.1) and the life of a command (95 L2.5) -/

theorem test_read_id :
    after (portAccess exec (rd 0x000) State.reset) (·.busReply) =
      some (.read .okay 0x4E544501#32) := by decide
theorem test_read_param :
    after (portAccess exec (rd 0x004) State.reset) (·.busReply) =
      some (.read .okay 0x00000020#32) := by decide
/-- A8: word index 1 is past NW = 1. -/
theorem test_read_past_nw :
    after (portAccess exec (rd 0x104) (demo 72 0 0)) (·.busReply) = some (.read .okay 0#32) := by
  decide
/-- A6: only DONE_IE is stored. -/
theorem test_write_irq_en :
    after (portAccess exec (wr 0x010 0xFFFFFFFF#32) State.reset) (irqEnWord ·.doneIe) =
      some 1#32 := by decide
/-- A12: byte enables 0b0001. -/
theorem test_subword_write_is_bus_error :
    after (portAccess exec { wr 0x100 5 with be := 0b0001#4 } (demo 72 0 0))
      (fun t => (t.busReply, t.opa)) = some (.wrote .error, [72#32]) := by decide
/-- A16: only the W1C bits act. -/
theorem test_status_w1c :
    ((Status.mk false true false .none true 4#4).writeOneToClear 0xFFFFFFFF#32).word =
      0x00004000#32 := by decide
/-- E1. -/
theorem test_illegal_command :
    after (commandWrite exec 0x7#32 State.reset) (·.status.word) = some 0x00007022#32 := by decide
/-- E5. -/
theorem test_illegal_command_rsv :
    after (commandWrite exec 0x80000004#32 State.reset) (·.status.word) = some 0x00004022#32 := by
  decide
/-- E6. -/
theorem test_accept_modpow :
    after (commandWrite exec 0x4#32 (demo 72 23 187))
      (fun t => (t.status.word, t.work.b, t.work.e, t.work.m)) =
      some (0x00004001#32, 72, 23, 187) := by decide
/-- E7. -/
theorem test_overrun :
    after (commandWrite exec 0x1#32 ((demo 72 23 187).accept .modpow)) (·.status.word) =
      some 0x00004101#32 := by decide

/-! ### Sequencer steps -/

/-- 95 L2.2, row 1 of the port trace of ISPRIME(97). -/
theorem test_isprime_s1_call :
    after (step (running (.isprime .s1) (workN 97))) (·.xpend) =
      some (some { op := .mod, x := 97, y := 3 }) := by decide
/-- 95 L2.2: n = 2 commits 1 at S0, STATUS 0x1002. -/
theorem test_isprime_two :
    after (step (running (.isprime .s0) (workN 2))) (fun t => (t.res0, t.status.word)) =
      some ([1#32], 0x00001002#32) := by decide
/-- 95 L2.3, pass 2 of EGCD(7, 160): `SUB(0, 22) = -22` moves (s0, s1) to (1, -22). -/
theorem test_egcd_e5_resume :
    (coreResume .e5 (-22) { Work.atReset with s0 := 0, s1 := 1 }).1.s0 = 1 ∧
    (coreResume .e5 (-22) { Work.atReset with s0 := 0, s1 := 1 }).1.s1 = -22 := by decide
/-- 95 L2.3: EGCD(5, -3) raises INVALID_MODULUS, STATUS 0x2012. -/
theorem test_egcd_bad_modulus :
    after (step (running (.egcd .g0) { Work.atReset with a := 5, m := -3 })) (·.status.word) =
      some 0x00002012#32 := by decide
/-- 95 L2.3: a gcd that is not 1 commits with NOINV, STATUS 0x3006. -/
theorem test_modinv_no_inverse :
    after (step (running (.modinv .i2) { Work.atReset with r0 := 2, m := 160 })) (·.status.word) =
      some 0x00003006#32 := by decide
/-- 95 L1.10: `MODINV(3, 160)` adds 160 to 107 at I4. -/
theorem test_modinv_i4_call :
    after (step (running (.modinv .i4) { Work.atReset with u := 107, m := 160 })) (·.xpend) =
      some (some { op := .add, x := 107, y := 160 }) := by decide
/-- 95 L2.4: MODPOW(3, -1, 1) raises NEGATIVE_EXPONENT, STATUS 0x4032. -/
theorem test_modpow_negative_exponent :
    after (step (running (.modpow .p0) { Work.atReset with b := 3, e := -1, m := 1 }))
      (·.status.word) = some 0x00004032#32 := by decide
/-- 95 L2.4, step trace of MODPOW(72, 23, 187): after pass 0, `b = 135` and `e = 11`. -/
theorem test_modpow_p6_resume :
    (modpowResume .p6 135 { Work.atReset with e := 23 }).work.b = 135 ∧
    (modpowResume .p6 135 { Work.atReset with e := 23 }).work.e = 11 := by decide
/-- 44 R191: P4 and P6 call MOD, not MUL; 10 mod 3 = 1 is what MODPOW(10, 1, 3) commits. -/
theorem test_modpow_reduces :
    (modpowStart .p4 { Work.atReset with t := 10, m := 3 }).next = .call .mod 10 3 ∧
    (modpowStart .p6 { Work.atReset with t := 10, m := 3 }).next = .call .mod 10 3 ∧
    (Request.mk .mod 10 3).result = 1 := by decide

/-! ### Host programs (95 A19) -/

theorem test_ld_words :
    asmLd { Params.atReset with w := 64 } .opa (-3) =
      [.wr (.op .opa) 0 0xFFFFFFFD#32, .wr (.op .opa) 1 0xFFFFFFFF#32] := by decide

/-- A compare wider than one word (R90); the variable holds the signed value that `get` gives. -/
theorem test_bne_wide_compare :
    intAnd (-1) 0xFFFFFFFFFFFFFFFF = 0xFFFFFFFFFFFFFFFF ∧
      intAnd 0x1_0000_0003 0x1_0000_0001 = 0x1_0000_0001 := by decide

/-- 41 R132: a program ends at its last access, although a loop without accesses follows it. -/
theorem test_ended_in_a_spin :
    let prog : List HostStmt := [.wr .status 0 0x2#32, .label 0, .bne 5 1 1 0]
    State.hostEnded { State.reset with host := { prog := prog, pc := 1, vars := [(5, 2)] } } :=
  ⟨rfl, quietFor_of_closed
    (fun h => h = ⟨[.wr .status 0 0x2#32, .label 0, .bne 5 1 1 0], 1, [(5, 2)]⟩ ∨
      h = ⟨[.wr .status 0 0x2#32, .label 0, .bne 5 1 1 0], 2, [(5, 2)]⟩)
    (by rintro h (rfl | rfl) <;> exact ⟨_, rfl, by decide⟩) (.inl rfl)⟩

/-- 41 R132: before its last access a program has not ended. -/
theorem test_not_ended_before_ack :
    ¬ State.hostEnded { State.reset with
      host := { prog := [.label 0] ++ asmAck, pc := 0, vars := [] } } :=
  fun h => absurd (h.2 2) (by decide)

/-! ### The ports (10 R33) -/

/-- x_req_op of MOD is 0b100 (30 R83). -/
theorem test_port_offer :
    let s := { running (.isprime .s1) (workN 97) with xpend := some ⟨.mod, 97, 3⟩ }
    s.xReqValid = true ∧ s.xReqOp = some 0b100#3 ∧ after (step s) (·.xReqValid) = some false := by
  decide

/-- h_resp = 1 is ERROR. -/
theorem test_port_resp :
    after (portAccess exec (rd 0x102) State.reset) (·.busReply.hResp) = some (some 1#1) := by decide

/-- h_req of a `wait` line: a read of STATUS. -/
theorem test_port_host_line :
    { State.reset with host := { prog := asmWait 0 0, pc := 1, vars := [] } }.hAccess =
      some (rd 0x00C) := by decide

/-- A response that arrives after a reset is present in its turn (10 R32). -/
theorem test_port_late_response :
    { State.reset with sched := [.lateResponse (-2)] }.xRspData = some 0xFFFFFFFFFFFFFFFE#64 := rfl

/-- With an active-low `rst`, the pin is high while reset is released. -/
theorem test_port_rst :
    { State.reset with params := { Params.atReset with
      rstStyle := { Params.atReset.rstStyle with polarity := .activeLow } } }.rstPin = true := by
  decide

/-! ### Witnesses: states that meet the hypotheses of each statement -/

theorem demo_inv (a b c : Word) : Inv (demo a b c) := by
  constructor <;>
    simp [demo, State.reset, State.resetWith, Params.atReset, Params.Wf, Params.nw, Phase.running,
      Status.atReset]

theorem demo_ready (a b c : Word) : Ready (demo a b c) :=
  ⟨demo_inv a b c, rfl, rfl, rfl⟩

theorem running_inv (l : StepLabel) (w : Work) (h : LabelOk w l) : Inv (running l w) := by
  constructor <;>
    simp_all [running, State.reset, State.resetWith, Params.atReset, Params.Wf, Params.nw, Phase.running,
      Status.atReset]

theorem test_witness_DecodeOfEncodeIsTheInstruction :
    0 < 8 ∧ (Instr.div (-128) 127).wellFormed 8 = true ∧ (Instr.modpow).wellFormed 8 = true := by
  decide

theorem test_witness_PortVectorCarriesOpAndOperands :
    0 < 8 ∧ fitsBits 8 (-128) = true ∧ fitsBits 8 127 = true := by decide

theorem test_witness_StepRunsTheWrittenCommand :
    let s := { demo 97 0 0 with sched := [.access (wr 0x008 1)] }
    s.sched = .access (wr 0x008 1) :: [] ∧ s.rst = false ∧ (wr 0x008 1).be = 0b1111#4 ∧
      (wr 0x008 1).addr = 0x008#12 ∧ (wr 0x008 1).we = true ∧
      decodeCmd (wr 0x008 1).wdata = .instr .isprime := by decide

theorem test_witness_StepRunsTheHostsCommandLine :
    let s := { demo 97 0 0 with host := { prog := asmCmd .isprime, pc := 0, vars := [] } }
    s.params.Wf ∧ s.rst = false ∧ s.nextTurn = .host ∧
      s.host.prog[s.host.pc]? = some (.wr .cmd 0 Command.isprime.word) := by decide

theorem test_witness_StepRunsTheOutstandingRequest :
    let s := { running (.isprime .s1) (workN 97) with xpend := some ⟨.mod, 97, 3⟩, xacc := true }
    s.rst = false ∧ s.nextTurn = .engine ∧ s.xpend = some ⟨.mod, 97, 3⟩ ∧ s.xacc = true ∧
      s.xrsp = none := by decide

/-- ISPRIME on 97 offers its first request. -/
def offering : State := { running (.isprime .s1) (workN 97) with xpend := some ⟨.mod, 97, 3⟩ }

theorem offering_inv : Inv offering := by
  obtain ⟨p, l, b, c, o, -, -, -, -, lab, r⟩ :=
    running_inv (.isprime .s1) (workN 97) (by simp [LabelOk, workN])
  exact ⟨p, l, b, c, o, by simp [offering, running],
    by rintro l r ⟨⟩ ⟨⟩; rfl, by simp [offering], by simp [offering, running, State.reset,
      State.resetWith], lab, r⟩

theorem test_witness_HandshakeAcceptsTheOfferedRequest :
    offering.rst = false ∧ offering.xpend = some ⟨.mod, 97, 3⟩ ∧ offering.xacc = false ∧
      offering.xrsp = none ∧ offering.nextTurn = .engine := by decide

/-- The turn that accepts, and a reset. -/
theorem test_witness_OutstandingRequestIsHeld :
    Inv offering ∧ (nextOf (step offering)).isSome = true ∧
      Inv { offering with sched := [.assertReset] } ∧
      (nextOf (step { offering with sched := [.assertReset] })).isSome = true :=
  ⟨offering_inv, by decide, inv_env offering_inv _ _ _, by decide⟩

theorem test_witness_DivAnswersTheFloorQuotient : (0 : Int) < 1 := by decide

theorem test_witness_ModAnswersTheRemainderInRange : (0 : Int) < 1 := by decide

theorem test_witness_CommandWhileIdleIsAccepted : (demo 72 23 187).phase = .idle := by decide

theorem test_witness_CommandWriteWhileBusyOnlySetsOverrun :
    (running (.modpow .p0) Work.atReset).phase = .run (.modpow .p0) := by decide

/-- Each of the three clauses, at the ends of its range. -/
theorem test_witness_IllegalWordCompletesAtOnce :
    State.reset.phase = .idle ∧ (0x11#32).extractLsb' 4 28 ≠ 0#28 ∧
      (0#32).extractLsb' 0 4 = 0#4 ∧ 5#4 ≤ (5#32).extractLsb' 0 4 ∧
      5#4 ≤ (0xF#32).extractLsb' 0 4 := by decide

/-- Values at both ends of the range, and one past each end. -/
theorem test_witness_CommittedResultsReadBack :
    let fits := fun v : Int => -(2 : Int) ^ 31 ≤ v ∧ v ≤ 2 ^ 31 - 1
    State.reset.params.Wf ∧ fits (-2147483648) ∧ fits 2147483647 ∧ ¬ fits 2147483648 ∧
      ¬ fits (-2147483649) := by decide

theorem test_witness_ResultsChangeOnlyAtCompletion :
    let s := running (.isprime .s0) (workN 2)
    after (step s) (fun t => decide (t.res0 ≠ s.res0)) = some true := by decide

theorem test_witness_EngineTurnFrame :
    let s := running (.isprime .s0) (workN 2)
    s.nextTurn = .engine ∧ (nextOf (step s)).isSome = true := by decide

theorem test_witness_HostAccessLeavesTheRunningCommandAlone :
    let s := { running (.isprime .s0) (workN 2) with sched := [.access (wr 0x100 5)] }
    Inv s ∧ s.phase.running = true ∧ s.nextTurn = .access (wr 0x100 5) ∧
      (nextOf (step s)).isSome = true := by
  refine ⟨?_, by decide, by decide, by decide⟩
  exact inv_env (running_inv (.isprime .s0) (workN 2) trivial) _ _ _

/-- The other case of the hypothesis: a line of the host's program, while a command runs. -/
theorem test_witness_HostLineLeavesTheRunningCommandAlone :
    let s := { running (.isprime .s0) (workN 2) with
      host := { prog := asmCmd .egcd, pc := 0, vars := [] }, sched := [.host] }
    Inv s ∧ s.phase.running = true ∧ s.nextTurn = .host ∧
      after (step s) (·.status.cmdOvr) = some true :=
  ⟨inv_env (running_inv (.isprime .s0) (workN 2) trivial) _ _ _, by decide, by decide, by decide⟩

theorem test_witness_EveryTurnOfTheBlockHasANextState :
    let s := { State.reset with sched := [.engine] }
    s.rst = false ∧ s.nextTurn ≠ .host := by decide

theorem test_witness_CompletionRaisesTheInterrupt :
    let s := { running (.isprime .s0) (workN 2) with doneIe := true }
    s.nextTurn = .engine ∧ s.phase.running = true ∧ after (step s) (·.phase) = some .idle := by
  decide

/-- Word 0 is the only word at W = 32; the ends of the ranges that read 0. -/
theorem test_witness_ReadReturnsTheRegisterMap :
    Inv (demo 1 2 3) ∧ (demo 1 2 3).rst = false ∧ 0 < (demo 1 2 3).params.nw ∧
      (0x014 ≤ 0x014 ∧ 0x0FC < 0x100) ∧ 0x700 ≤ 0xFFC ∧
      (demo 1 2 3).params.nw ≤ 0x104 % 0x100 / 4 :=
  ⟨demo_inv 1 2 3, by decide, by decide, by decide, by decide, by decide⟩

/-- As above, with the read-only registers. -/
theorem test_witness_WriteActsOnItsWordOnly :
    Inv (demo 1 2 3) ∧ (demo 1 2 3).rst = false ∧ 0 < (demo 1 2 3).params.nw ∧
      0x400 ≤ 0x400 ∧ (demo 1 2 3).params.nw ≤ 0x104 % 0x100 / 4 :=
  ⟨demo_inv 1 2 3, by decide, by decide, by decide, by decide⟩

theorem test_witness_IllegalAccessChangesNothing :
    State.reset.rst = false ∧ { rd 0x100 with be := 0b0011#4 }.be ≠ 0b1111#4 ∧
      (rd 0x102).addr.toNat % 4 ≠ 0 := by decide

theorem test_witness_BusResponseIsOkayOrError : State.reset.rst = false := rfl

theorem test_witness_AccessDuringResetIsRefused : State.reset.assertReset.rst = true := by decide

theorem test_witness_InterruptIsDoneAndEnable :
    (0x2#32).getLsbD 1 = true ∧ State.reset.phase = .idle ∧ (0x2#32).getLsbD 0 = false := by decide

theorem test_witness_LoadWritesTheOperand :
    let s := { demo 1 2 3 with
      sched := [.host], host := { prog := asmLd Params.atReset .opa (-3), pc := 0, vars := [] } }
    Inv s ∧ s.rst = false ∧ fitsW s.params.w (-3) = true ∧
      s.sched = List.replicate s.params.nw .host ∧
      s.host.prog = asmLd s.params .opa (-3) ++ [] ∧ s.host.pc = 0 := by
  refine ⟨?_, by decide, by decide, by decide, by decide, by decide⟩
  exact inv_env (demo_inv 1 2 3) _ _ _

theorem test_witness_GetReadsTheResult :
    let s := { demo 1 2 3 with
      sched := [.host, .host], host := { prog := asmGet Params.atReset .res0 0 1, pc := 0, vars := [] } }
    Inv s ∧ s.rst = false ∧ s.sched = List.replicate (s.params.nw + 1) .host ∧
      s.host.prog = asmGet s.params .res0 0 1 ++ [] ∧ s.host.pc = 0 := by
  refine ⟨?_, by decide, by decide, by decide, by decide⟩
  exact inv_env (demo_inv 1 2 3) _ _ _

theorem test_witness_BranchFollowsTheMaskedCompare :
    let s := { State.reset with host := { prog := asmWait 0 0, pc := 2, vars := [(0, 1)] } }
    s.nextTurn = .host ∧ s.host.prog[s.host.pc]? = some (.bne 0 0x3 0x2 0) ∧
      lookupVar s.host.vars 0 = some 1 ∧ labelLine 0 s.host.prog = some 0 := by decide

theorem test_witness_HostProgramMakesLegalAccessesOnly :
    let s := { demo 97 0 0 with host := { prog := asmCmd .isprime, pc := 0, vars := [] } }
    s.params.Wf ∧ s.nextTurn = .host ∧ s.busReply.isError = false ∧
      (nextOf (step s)).isSome = true := by decide

/-- A program with a branch left, and turns of both agents. -/
theorem test_witness_EndedProgramChangesNothing :
    let s := { demo 1 2 3 with
      host := { prog := asmAck ++ [.label 0], pc := 1, vars := [] }, sched := [.engine, .host] }
    Inv s ∧ s.hostEnded ∧ ∀ u ∈ s.sched, u = .engine ∨ u = .host :=
  ⟨inv_env (demo_inv 1 2 3) _ _ _,
    ⟨rfl, fun
      | 0     => rfl
      | n + 1 => quietFor_past_end (h := ⟨asmAck ++ [.label 0], 2, []⟩) (by decide) n⟩,
    by decide⟩

theorem test_witness_UnendedProgramComesToAnAccess :
    let s := { demo 1 2 3 with host := { prog := [.label 0] ++ asmAck, pc := 0, vars := [] } }
    Inv s ∧ s.phase = .idle ∧ s.sched = [] ∧ ¬ s.hostEnded :=
  ⟨inv_env (demo_inv 1 2 3) _ _ _, rfl, rfl, fun h => absurd (h.2 2) (by decide)⟩

theorem test_witness_ResetValues : Params.atReset.Wf ∧ { Params.atReset with w := 2048, nteBase := 0x1000 }.Wf := by decide

theorem test_witness_ResetAbandonsTheCommand :
    { running (.isprime .s1) (workN 97) with sched := [.assertReset] }.nextTurn = .assertReset := by
  decide

theorem test_witness_ResetPinFollowsItsPolarity :
    { State.reset with sched := [.assertReset] }.nextTurn = .assertReset ∧
      { State.reset with sched := [.releaseReset] }.nextTurn = .releaseReset := by decide

theorem test_witness_LateResponseAndReleaseChangeNothingElse :
    { State.reset with sched := [.lateResponse 5] }.nextTurn = .lateResponse 5 ∧
      { State.reset with sched := [.releaseReset] }.nextTurn = .releaseReset := by decide

theorem test_witness_ResetSatisfiesTheInvariant : { Params.atReset with w := 64, nteBase := 0x2000 }.Wf := by decide

theorem test_witness_EveryStepKeepsTheInvariant :
    Inv (demo 1 2 3) ∧ (nextOf (step (demo 1 2 3))).isSome = true :=
  ⟨demo_inv 1 2 3, by decide⟩

theorem test_witness_IssuedDivisorsArePositive :
    let s := running (.isprime .s1) (workN 97)
    Inv s ∧ after (step s) (·.xpend) = some (some ⟨.mod, 97, 3⟩) :=
  ⟨running_inv _ _ (by simp [LabelOk, workN]), by decide⟩

theorem test_witness_IsprimeDecidesPrimality : Ready (demo 97 0 0) := demo_ready 97 0 0

/-- Both clauses; the first in both commands, with a negative operand and one that no W-bit register
holds. -/
theorem test_witness_EgcdEqualsTheRecursion :
    (let s := running (inG1 .e0) { Work.atReset with a := -7, m := 2 ^ 40 }
     Inv s ∧ s.rst = false ∧ s.sched = [] ∧ s.phase = .run (inG1 .e0)) ∧
    (let s := running (inI1 .e0) { Work.atReset with a := -7, m := 2 ^ 40 }
     Inv s ∧ s.rst = false ∧ s.sched = [] ∧ s.phase = .run (inI1 .e0)) ∧
    Ready (demo 7 160 0) ∧ 0 ≤ (demo 7 160 0).operand .opb ∧ 0 ≤ (demo 5 0 0).operand .opb :=
  ⟨⟨running_inv _ _ (by simp [LabelOk, CoreOk, inG1]), rfl, rfl, rfl⟩,
    ⟨running_inv _ _ (by simp [LabelOk, CoreOk, inI1]), rfl, rfl, rfl⟩, demo_ready 7 160 0,
    by decide, by decide⟩

/-- 43 R176: EGCD(7, 160) has four passes; 43 R172: its triple. -/
theorem test_egcd_recursion : EgcdRef 7 160 1 23 (-1) 4 := by
  have h1 : EgcdRef 6 1 1 0 1 1 := EgcdRef.recurse (a := 6) (b := 1) (by decide) (.base 1)
  have h2 : EgcdRef 7 6 1 1 (-1) 2 := EgcdRef.recurse (a := 7) (b := 6) (by decide) h1
  have h3 : EgcdRef 160 7 1 (-1) 23 3 := EgcdRef.recurse (a := 160) (b := 7) (by decide) h2
  exact EgcdRef.recurse (a := 7) (b := 160) (by decide) h3

theorem test_witness_EgcdReturnsABezoutTriple :
    Ready (demo 7 160 0) ∧ 0 ≤ (demo 7 160 0).operand .opb ∧ Ready (demo 5 0 0) ∧
      (demo 5 0 0).operand .opb = 0 :=
  ⟨demo_ready 7 160 0, by decide, demo_ready 5 0 0, by decide⟩

/-- Both outcomes: an inverse, and none. -/
theorem test_witness_ModinvReturnsTheInverseOrNone :
    Ready (demo 7 160 0) ∧ 0 < (demo 7 160 0).operand .opb ∧ Ready (demo 2 160 0) ∧
      Int.gcd ((demo 2 160 0).operand .opa) ((demo 2 160 0).operand .opb) ≠ 1 :=
  ⟨demo_ready 7 160 0, by decide, demo_ready 2 160 0, by decide⟩

/-- The boundary values `modulus = 1` and `exponent = 0`, and a negative base. -/
theorem test_witness_ModpowCommitsThePower :
    Ready (demo 0xFFFFFFFE 0 1) ∧ 0 < (demo 0xFFFFFFFE 0 1).operand .opc ∧
      0 ≤ (demo 0xFFFFFFFE 0 1).operand .opb :=
  ⟨demo_ready 0xFFFFFFFE 0 1, by decide, by decide⟩

theorem test_witness_ModpowReportsTheFirstFailingCheck :
    Ready (demo 3 0xFFFFFFFF 0) ∧ (demo 3 0xFFFFFFFF 0).operand .opc ≤ 0 ∧
      Ready (demo 3 0xFFFFFFFF 1) ∧ 0 < (demo 3 0xFFFFFFFF 1).operand .opc ∧
      (demo 3 0xFFFFFFFF 1).operand .opb < 0 :=
  ⟨demo_ready 3 0xFFFFFFFF 0, by decide, demo_ready 3 0xFFFFFFFF 1, by decide, by decide⟩

theorem test_witness_EuclidRejectsBadModuli :
    Ready (demo 5 0xFFFFFFFF 0) ∧ (demo 5 0xFFFFFFFF 0).operand .opb < 0 ∧ Ready (demo 5 0 0) ∧
      (demo 5 0 0).operand .opb ≤ 0 :=
  ⟨demo_ready 5 0xFFFFFFFF 0, by decide, demo_ready 5 0 0, by decide⟩

theorem test_witness_IsprimeTransactionCount : Ready (demo 25 0 0) := demo_ready 25 0 0

theorem test_witness_EuclidTransactionCounts :
    Ready (demo 7 160 0) ∧ 0 < (demo 7 160 0).operand .opb ∧
      (demo 7 0xFFFFFFFF 0).operand .opb < 0 ∧ (demo 7 0 0).operand .opb ≤ 0 :=
  ⟨demo_ready 7 160 0, by decide, by decide, by decide⟩

theorem test_witness_ModpowTransactionCount : Ready (demo 72 23 187) := demo_ready 72 23 187

/-- The state after a step that has one. -/
def stepped (s : State) : State := (nextOf (step s)).getD s

/-- The host is about to start ISPRIME on 5, and another host will write OPA meanwhile. -/
def aboutToTest : State :=
  { demo 5 0 0 with
    host  := { prog := asmCmd .isprime, pc := 0, vars := [] }
    sched := [.host, .access (wr 0x100 7)] }

theorem aboutToTest_inv : Inv aboutToTest := inv_env (demo_inv 5 0 0) _ _ _

/-- ISPRIME on 5 has issued its first request in four steps. -/
theorem test_witness_PortValuesStayInRange :
    ∃ s x : State, Inv s ∧ s.phase = .idle ∧ Reaches 4 s x ∧ x.xpend = some ⟨.mod, 5, 3⟩ :=
  ⟨aboutToTest, stepped (stepped (stepped (stepped aboutToTest))), aboutToTest_inv, rfl,
    ⟨stepped aboutToTest, rfl, stepped (stepped aboutToTest), rfl,
      stepped (stepped (stepped aboutToTest)), rfl,
      stepped (stepped (stepped (stepped aboutToTest))), rfl, rfl⟩, by decide⟩

theorem test_witness_OperandWriteCommutesWithTheEngine :
    (demo 1 2 3).rst = false ∧ (wr 0x100 5).legal = true ∧ (wr 0x100 5).we = true ∧
      (demo 1 2 3).targetOf (wr 0x100 5) = .opWord .opa 0 := by decide

theorem test_witness_CompletionDependsOnUsedOperandsOnly :
    Ready (demo 97 0 0) ∧ Ready (demo 97 5 6) ∧
      (demo 97 0 0).params.w = (demo 97 5 6).params.w ∧
      ∀ r ∈ usedOperands .isprime, (demo 97 0 0).operand r = (demo 97 5 6).operand r :=
  ⟨demo_ready 97 0 0, demo_ready 97 5 6, rfl, by decide⟩

end Sys2Proof.Tests
end

section
/-! What a step can do, said once: the moves of the engine and of the host as relations, and the
inversion of `step` into them. -/

namespace Sys2Proof.Machine

/-- What one access of the host can do to the block: nothing, the CMD write of a command word or of an
illegal one (R122), or a write to another word (R121). All but the first need reset released (R242). -/
inductive BlockWrite (s : State) : State → Prop where
  | nothing : BlockWrite s s
  | command (c : Command) (hrst : s.rst = false) : BlockWrite s (s.issue c)
  | illegal (v : Word) (hrst : s.rst = false) : BlockWrite s (s.issueIllegal v)
  | word (v : Word) (g : Target) (hrst : s.rst = false) : BlockWrite s (writeTarget s v g)

/-- A turn of the host: one write to the block, and any change of the environment (R20, R90). -/
def HostMove (s t : State) : Prop :=
  ∃ u, BlockWrite s u ∧ ∃ r a ts, t = { u with busReply := r, host := a, sched := ts }

/-- A turn of the engine, with what it needs (R33, R107, R130, R240). -/
inductive EngineMove (s : State) : State → Prop where
  | inReset (hrst : s.rst = true) : EngineMove s s
  | idle (hp : s.phase = .idle) (hx : s.xpend = none) (hv : s.xrsp = none) : EngineMove s s
  | discard (hp : s.phase = .idle) {v : Int} (hv : s.xrsp = some v) : EngineMove s s.takeResponse
  | handshake {r : Request} (hx : s.xpend = some r) (hv : s.xrsp = none) (ha : s.xacc = false) :
      EngineMove s s.acceptRequest
  | answer {r : Request} (hx : s.xpend = some r) (hv : s.xrsp = none) (ha : s.xacc = true) :
      EngineMove s (s.respond r.result)
  | start {l : StepLabel} (hp : s.phase = .run l) (hx : s.xpend = none) (hv : s.xrsp = none) :
      EngineMove s (s.applyMove (startStep l s.work))
  | resume {l : StepLabel} (hp : s.phase = .run l) {v : Int} (hv : s.xrsp = some v) :
      EngineMove s (s.takeResponse.applyMove (resumeStep l v s.work))

/-! ### The host's turns are host moves -/

theorem issue_env (s : State) (c : Command) (r : BusReply) (a : HostAgent) (ts : List Turn) :
    State.issue { s with busReply := r, host := a, sched := ts } c =
      { s.issue c with busReply := r, host := a, sched := ts } := by
  unfold State.issue; split <;> rfl

theorem issueIllegal_env (s : State) (v : Word) (r : BusReply) (a : HostAgent) (ts : List Turn) :
    State.issueIllegal { s with busReply := r, host := a, sched := ts } v =
      { s.issueIllegal v with busReply := r, host := a, sched := ts } := by
  unfold State.issueIllegal; split <;> rfl

theorem writeTarget_env (s : State) (v : Word) (g : Target) (r : BusReply) (a : HostAgent)
    (ts : List Turn) :
    writeTarget { s with busReply := r, host := a, sched := ts } v g =
      { writeTarget s v g with busReply := r, host := a, sched := ts } := by
  cases g with
  | opWord x k => cases x <;> rfl
  | _ => rfl

/-- What a host move does to the block does not depend on the environment before it. -/
theorem HostMove.of_env {s t : State} {r : BusReply} {a : HostAgent} {ts : List Turn}
    (h : HostMove { s with busReply := r, host := a, sched := ts } t) : HostMove s t := by
  obtain ⟨u, hu, r', a', ts', rfl⟩ := h
  cases hu with
  | nothing        => exact ⟨s, .nothing, r', a', ts', rfl⟩
  | command c hrst => exact ⟨s.issue c, .command c hrst, r', a', ts', by rw [issue_env]⟩
  | illegal v hrst =>
    exact ⟨s.issueIllegal v, .illegal v hrst, r', a', ts', by rw [issueIllegal_env]⟩
  | word v g hrst  => exact ⟨writeTarget s v g, .word v g hrst, r', a', ts', by rw [writeTarget_env]⟩

/-- A host move may leave any environment. -/
theorem HostMove.env {s t : State} (h : HostMove s t) (r : BusReply) (a : HostAgent)
    (ts : List Turn) : HostMove s { t with busReply := r, host := a, sched := ts } := by
  obtain ⟨u, hu, -, -, -, rfl⟩ := h
  exact ⟨u, hu, r, a, ts, rfl⟩

theorem BlockWrite.hostMove {s t : State} (h : BlockWrite s t) : HostMove s t :=
  ⟨t, h, t.busReply, t.host, t.sched, rfl⟩

theorem HostMove.refl (s : State) : HostMove s s := BlockWrite.nothing.hostMove

theorem hostMove_of_portAccess {a : Access} {s t : State} (h : portAccess exec a s = .next t) :
    HostMove s t := by
  have answered : HostMove { s with busReply := .wrote .okay } t → HostMove s t := HostMove.of_env
  obtain ⟨hrst, ⟨-, rfl⟩ | ⟨-, -, -, hw⟩ | ⟨-, -, -, rfl⟩ | ⟨-, -, rfl⟩⟩ := portAccess_cases h
  · exact (HostMove.refl s).env _ s.host s.sched
  · rcases commandWrite_cases a.wdata { s with busReply := .wrote .okay } with
      ⟨c, -, hc⟩ | ⟨-, hc⟩ <;> cases hw.symm.trans hc
    · exact answered (BlockWrite.hostMove (.command c hrst))
    · exact answered (BlockWrite.hostMove (.illegal a.wdata hrst))
  · exact answered (BlockWrite.hostMove (.word a.wdata (s.targetOf a) hrst))
  · exact (HostMove.refl s).env _ s.host s.sched

theorem hostMove_of_hostTurn {s t : State} (h : hostTurn exec s = .next t) : HostMove s t := by
  obtain rfl | ⟨st, -, hl⟩ := hostTurn_cases h
  · exact .refl t
  · obtain ⟨a, rfl⟩ | ⟨acc, u, a, -, hu, rfl⟩ := hostLine_cases hl
    · exact (HostMove.refl s).env s.busReply a s.sched
    · exact (hostMove_of_portAccess hu).of_env.env u.busReply a u.sched

/-! ### The engine's turns are engine moves -/

theorem engineMove_of_engineTurn {s t : State} (h : engineTurn exec s = .next t) :
    EngineMove s t := by
  obtain ⟨hrst, ht⟩ | ⟨-, r, hx, hv, ⟨ha, ht⟩ | ⟨ha, ht⟩⟩ | ⟨-, hp, hx, hv, ht⟩ |
    ⟨-, hp, ⟨v, hv⟩, ht⟩ | ⟨-, l, hp, ⟨v, hv, ht⟩ | ⟨hx, hv, ht⟩⟩ := engineTurn_cases s <;>
    cases ht.symm.trans h
  · exact .inReset hrst
  · exact .handshake hx hv ha
  · exact .answer hx hv ha
  · exact .idle hp hx hv
  · exact .discard hp hv
  · exact .resume hp hv
  · exact .start hp hx hv

/-! ### A step -/

/-- What a step can do: the move of the agent whose turn it is (R20, R70), or a turn of the platform
(R32, R241, R242). -/
theorem step_cases {s t : State} (h : step s = .next t) :
    (s.nextTurn = .engine ∧ EngineMove s.popTurn t) ∨
    ((s.nextTurn = .host ∨ ∃ a, s.nextTurn = .access a) ∧ HostMove s.popTurn t) ∨
    (s.nextTurn = .assertReset ∧ t = s.popTurn.assertReset) ∨
    (s.nextTurn = .releaseReset ∧ t = s.popTurn.releaseReset) ∨
    ((∃ v, s.nextTurn = .lateResponse v) ∧ t = s.popTurn) := by
  rw [step_eq] at h
  cases hn : s.nextTurn <;> rw [hn] at h
  case engine => exact .inl ⟨rfl, engineMove_of_engineTurn h⟩
  case host => exact .inr (.inl ⟨.inl rfl, hostMove_of_hostTurn h⟩)
  case access a => exact .inr (.inl ⟨.inr ⟨a, rfl⟩, hostMove_of_portAccess h⟩)
  case assertReset => cases h; exact .inr (.inr (.inl ⟨rfl, rfl⟩))
  case releaseReset => cases h; exact .inr (.inr (.inr (.inl ⟨rfl, rfl⟩)))
  case lateResponse v => cases h; exact .inr (.inr (.inr (.inr ⟨⟨v, rfl⟩, rfl⟩)))

end Sys2Proof.Machine
end

section
/-! Every operation of the block keeps the invariant, and so every step does (O35). -/

namespace Sys2Proof.Machine

/-! ### The host's writes -/

theorem firstStep_command (c : Command) : (firstStep c).command = c := by cases c <;> rfl

theorem labelOk_firstStep (w : Work) (c : Command) : LabelOk w (firstStep c) := by
  cases c <;> trivial

theorem inv_accept {s : State} (h : Inv s) (hp : s.phase = .idle) (hrst : s.rst = false)
    (c : Command) : Inv (s.accept c) where
  params   := h.params
  lengths  := h.lengths
  busy     := rfl
  clean    := fun _ => ⟨rfl, rfl, rfl⟩
  lastOp   := by rintro _ ⟨⟩; exact congrArg Command.op (firstStep_command c).symm
  idlePort := nofun
  request  := by simp [h.idlePort hp]
  accepted := h.accepted
  response := h.response
  label    := by rintro _ ⟨⟩; exact labelOk_firstStep _ c
  inReset  := by simp [hrst]

theorem inv_overrun {s : State} (h : Inv s) (hrst : s.rst = false) : Inv s.overrun :=
  { h with inReset := by simp [hrst] }

theorem inv_issue {s : State} (h : Inv s) (hrst : s.rst = false) (c : Command) :
    Inv (s.issue c) := by
  cases hp : s.phase with
  | idle  => rw [issue_of_idle c hp]; exact inv_accept h hp hrst c
  | run l => rw [issue_of_running c (by simp [hp, Phase.running])]; exact inv_overrun h hrst

theorem inv_issueIllegal {s : State} (h : Inv s) (hrst : s.rst = false) (v : Word) :
    Inv (s.issueIllegal v) := by
  unfold State.issueIllegal
  split
  · exact inv_overrun h hrst
  · rename_i hp
    exact { h with
      clean   := fun hr => absurd hr hp
      lastOp  := fun l hl => absurd (congrArg Phase.running hl) hp
      inReset := by simp [hrst] }

theorem inv_setOpReg {s : State} (h : Inv s) {r : DataReg} (hr : r.length = s.params.nw)
    (x : OpReg) : Inv (s.setOpReg r x) := by
  obtain ⟨ha, hb, hc, hres⟩ := h.lengths
  cases x
  case opa => exact { h with lengths := ⟨hr, hb, hc, hres⟩ }
  case opb => exact { h with lengths := ⟨ha, hr, hc, hres⟩ }
  case opc => exact { h with lengths := ⟨ha, hb, hr, hres⟩ }

theorem inv_opReg_length {s : State} (h : Inv s) (x : OpReg) :
    (s.opReg x).length = s.params.nw := by
  obtain ⟨ha, hb, hc, -⟩ := h.lengths
  cases x <;> assumption

theorem inv_writeTarget {s : State} (h : Inv s) (hrst : s.rst = false) (v : Word) (g : Target) :
    Inv (writeTarget s v g) := by
  cases g
  case status =>
    exact { h with
      clean   := fun hr => ⟨by simp [writeTarget, Status.writeOneToClear, h.clean hr], (h.clean hr).2⟩
      inReset := by simp [hrst] }
  case irqEn => exact { h with inReset := by simp [hrst] }
  case opWord x k => exact inv_setOpReg h (by simp [inv_opReg_length h]) x
  all_goals exact h

theorem BlockWrite.inv {s t : State} (hw : BlockWrite s t) (h : Inv s) : Inv t := by
  cases hw with
  | nothing        => exact h
  | command c hrst => exact inv_issue h hrst c
  | illegal v hrst => exact inv_issueIllegal h hrst v
  | word v g hrst  => exact inv_writeTarget h hrst v g

theorem HostMove.inv {s t : State} (hm : HostMove s t) (h : Inv s) : Inv t := by
  obtain ⟨u, hu, r, a, ts, rfl⟩ := hm
  exact inv_env (hu.inv h) r a ts

/-! ### The engine's moves -/

/-- No response stands on the port without a request. -/
theorem inv_xrsp_eq_none {s : State} (h : Inv s) (hx : s.xpend = none) : s.xrsp = none := by
  cases hv : s.xrsp with
  | none   => rfl
  | some v =>
    obtain ⟨-, r, hr, -⟩ := h.response v hv
    rw [hx] at hr; cases hr

theorem inv_acceptRequest {s : State} (h : Inv s) {r : Request} (hx : s.xpend = some r) :
    Inv s.acceptRequest :=
  { h with
    accepted := fun _ => ⟨r, hx⟩
    response := fun v hv => ⟨rfl, (h.response v hv).2⟩ }

theorem inv_respond {s : State} (h : Inv s) {r : Request} (hx : s.xpend = some r)
    (ha : s.xacc = true) : Inv (s.respond r.result) :=
  { h with
    idlePort := fun hp => by simp [(h.idlePort hp).1] at hx
    response := by rintro _ ⟨⟩; exact ⟨ha, r, hx, rfl⟩ }

theorem inv_takeResponse {s : State} (h : Inv s) : Inv s.takeResponse :=
  { h with
    idlePort := fun _ => ⟨rfl, rfl⟩
    request  := nofun
    accepted := nofun
    response := nofun }

/-- A command ends: PHASE goes to IDLE and BUSY to 0, with no request left on the port (R126, R127). -/
theorem inv_ended {s : State} (h : Inv s) (hrst : s.rst = false) (hx : s.xpend = none) (w : Work)
    {r0 r1 r2 : DataReg} (h0 : r0.length = s.params.nw) (h1 : r1.length = s.params.nw)
    (h2 : r2.length = s.params.nw) {st : Status} (hst : st.busy = false) :
    Inv { s with work := w, res0 := r0, res1 := r1, res2 := r2, status := st, phase := .idle } where
  params   := h.params
  lengths  := by
    obtain ⟨ha, hb, hc, -⟩ := h.lengths
    exact ⟨ha, hb, hc, h0, h1, h2⟩
  busy     := hst
  clean    := nofun
  lastOp   := nofun
  idlePort := fun _ => ⟨hx, inv_xrsp_eq_none (s := s) h hx⟩
  request  := nofun
  accepted := h.accepted
  response := h.response
  label    := nofun
  inReset  := by simp [hrst]

theorem inv_raiseError {s : State} (h : Inv s) (hrst : s.rst = false) (hx : s.xpend = none)
    (w : Work) (e : ErrCode) : Inv (State.raiseError { s with work := w } e) := by
  obtain ⟨-, -, -, h0, h1, h2⟩ := h.lengths
  exact inv_ended h hrst hx w h0 h1 h2 rfl

theorem inv_commit {s : State} (h : Inv s) (hrst : s.rst = false) (hx : s.xpend = none) (w : Work)
    (v0 v1 v2 : Int) (noinv : Bool) : Inv (State.commit { s with work := w } v0 v1 v2 noinv) := by
  obtain ⟨-, -, -, hc⟩ | hc := commit_cases { s with work := w } v0 v1 v2 noinv
  · rw [hc]
    exact inv_ended h hrst hx w (wordsOf_length _ _) (wordsOf_length _ _) (wordsOf_length _ _) rfl
  · rw [hc]; exact inv_raiseError h hrst hx w _

/-- The sequencer goes on to another step of the same command that may rely on the registers. -/
theorem inv_goto {s : State} (h : Inv s) {l l' : StepLabel} (hp : s.phase = .run l)
    (hx : s.xpend = none) {w : Work} (hl : LabelOk w l') (hc : l'.command = l.command) :
    Inv { s with work := w, phase := .run l' } where
  params   := h.params
  lengths  := h.lengths
  busy     := by rw [h.busy, hp]; rfl
  clean    := fun _ => h.clean (by rw [hp]; rfl)
  lastOp   := by rintro _ ⟨⟩; rw [hc]; exact h.lastOp l hp
  idlePort := nofun
  request  := by simp [hx]
  accepted := h.accepted
  response := h.response
  label    := by rintro _ ⟨⟩; exact hl
  inReset  := fun hr => by rw [(h.inReset hr).1] at hp; cases hp

/-- The sequencer issues the request of its step. -/
theorem inv_call {s : State} (h : Inv s) {l : StepLabel} (hp : s.phase = .run l)
    (hx : s.xpend = none) {op : PrimOp} {x y : Int}
    (hs : startStep l s.work = ⟨s.work, .call op x y⟩) :
    Inv { s with xpend := some { op := op, x := x, y := y }, xacc := false } :=
  { h with
    idlePort := fun hi => by simp [hp] at hi
    request  := by
      intro l' r hl' hr
      cases hp.symm.trans hl'
      cases hr
      exact hs
    accepted := nofun
    response := by simp [inv_xrsp_eq_none h hx] }

/-- A move keeps the invariant if what it goes to may rely on the registers, and what it issues is the
request of the step that it stands at. -/
theorem inv_applyMove {s : State} (h : Inv s) {l : StepLabel} (hp : s.phase = .run l)
    (hx : s.xpend = none) {mv : Move}
    (hgoto : ∀ l', mv = ⟨mv.work, .goto l'⟩ → LabelOk mv.work l' ∧ l'.command = l.command)
    (hcall : ∀ op x y, mv = ⟨mv.work, .call op x y⟩ →
      mv.work = s.work ∧ startStep l s.work = ⟨s.work, .call op x y⟩) :
    Inv (s.applyMove mv) := by
  have hrst : s.rst = false := inv_rst_of_running h (by rw [hp]; rfl)
  obtain ⟨w, nx⟩ := mv
  cases nx with
  | goto l' =>
    obtain ⟨hl, hc⟩ := hgoto l' rfl
    exact inv_goto h hp hx hl hc
  | call op x y =>
    obtain ⟨hw, hs⟩ := hcall op x y rfl
    cases hw
    exact inv_call h hp hx hs
  | commit v0 v1 v2 noinv => exact inv_commit h hrst hx w v0 v1 v2 noinv
  | raise e => exact inv_raiseError h hrst hx w e

theorem inv_start {s : State} (h : Inv s) {l : StepLabel} (hp : s.phase = .run l)
    (hx : s.xpend = none) : Inv (s.applyMove (startStep l s.work)) :=
  inv_applyMove h hp hx (fun _ hg => startStep_goto (h.label l hp) hg) fun op x y hc => by
    have hw := startStep_call_work hc
    exact ⟨hw, hc.trans (by rw [hw])⟩

theorem inv_resume {s : State} (h : Inv s) {l : StepLabel} (hp : s.phase = .run l) {v : Int}
    (hv : s.xrsp = some v) : Inv (s.takeResponse.applyMove (resumeStep l v s.work)) := by
  obtain ⟨-, r, hr, rfl⟩ := h.response v hv
  exact inv_applyMove (inv_takeResponse h) hp rfl
    (fun _ hg => resumeStep_goto (h.label l hp) (h.request l r hp hr) hg)
    fun op x y hc => absurd hc (resumeStep_ne_call _ _ _ _ op x y)

theorem EngineMove.inv {s t : State} (hm : EngineMove s t) (h : Inv s) : Inv t := by
  cases hm with
  | inReset _       => exact h
  | idle _ _ _      => exact h
  | discard _ _     => exact inv_takeResponse h
  | handshake hx _ _ => exact inv_acceptRequest h hx
  | answer hx _ ha  => exact inv_respond h hx ha
  | start hp hx _   => exact inv_start h hp hx
  | resume hp hv    => exact inv_resume h hp hv

/-! ### The platform's turns, and every step -/

theorem inv_popTurn {s : State} (h : Inv s) : Inv s.popTurn :=
  inv_env h s.busReply s.host s.sched.tail

theorem inv_assertReset {s : State} (h : Inv s) : Inv s.assertReset where
  params   := h.params
  lengths  := by simp
  busy     := rfl
  clean    := nofun
  lastOp   := nofun
  idlePort := fun _ => ⟨rfl, rfl⟩
  request  := nofun
  accepted := nofun
  response := nofun
  label    := nofun
  inReset  := fun _ => ⟨rfl, rfl, rfl⟩

theorem inv_releaseReset {s : State} (h : Inv s) : Inv s.releaseReset :=
  { h with inReset := nofun }

theorem inv_step {s t : State} (h : Inv s) (hs : step s = .next t) : Inv t := by
  have hpop : Inv s.popTurn := inv_popTurn h
  obtain ⟨-, hm⟩ | ⟨-, hm⟩ | ⟨-, rfl⟩ | ⟨-, rfl⟩ | ⟨-, rfl⟩ := step_cases hs
  · exact hm.inv hpop
  · exact hm.inv hpop
  · exact inv_assertReset hpop
  · exact inv_releaseReset hpop
  · exact hpop

/-- Settles O35: every kind of step, taken apart by `step_cases`, keeps the invariant. -/
theorem everyStepKeepsTheInvariant : Obligations.EveryStepKeepsTheInvariant :=
  fun _ _ => inv_step

end Sys2Proof.Machine
end

section
/-! What the moves leave alone, and the tier 2 statements about it (O16, O17, O18, O51). -/

namespace Sys2Proof.Machine

/-! ### The host's moves -/

/-- No access of the host touches the parameters, the reset line, the results or the port. -/
theorem BlockWrite.frame {s t : State} (h : BlockWrite s t) :
    t.params = s.params ∧ t.rst = s.rst ∧ t.res0 = s.res0 ∧ t.res1 = s.res1 ∧ t.res2 = s.res2 ∧
      t.xpend = s.xpend ∧ t.xacc = s.xacc ∧ t.xrsp = s.xrsp := by
  cases h <;> simp

theorem HostMove.frame {s t : State} (h : HostMove s t) :
    t.params = s.params ∧ t.rst = s.rst ∧ t.res0 = s.res0 ∧ t.res1 = s.res1 ∧ t.res2 = s.res2 ∧
      t.xpend = s.xpend ∧ t.xacc = s.xacc ∧ t.xrsp = s.xrsp := by
  obtain ⟨u, hu, r, a, ts, rfl⟩ := h
  exact hu.frame

/-- While a command runs, a CMD write is an overrun (R125), so no access touches the sequencer. -/
theorem BlockWrite.sequencer_of_running {s t : State} (h : BlockWrite s t)
    (hr : s.phase.running = true) : t.phase = s.phase ∧ t.work = s.work := by
  cases h with
  | nothing     => exact ⟨rfl, rfl⟩
  | command c _ => simp [issue_of_running c hr]
  | illegal v _ => simp
  | word v g _  => simp

theorem HostMove.sequencer_of_running {s t : State} (h : HostMove s t)
    (hr : s.phase.running = true) : t.phase = s.phase ∧ t.work = s.work := by
  obtain ⟨u, hu, r, a, ts, rfl⟩ := h
  exact hu.sequencer_of_running hr

/-- What the invariant says of STATUS while a command runs (R25, R31, R123). -/
theorem inv_status_of_running {s : State} (h : Inv s) {l : StepLabel} (hp : s.phase = .run l) :
    s.status.busy = true ∧ s.status.done = false ∧ s.status.noinv = false ∧
      s.status.err = .none ∧ s.status.lastOp = l.command.op := by
  have hr : s.phase.running = true := by rw [hp]; rfl
  obtain ⟨hdone, hnoinv, herr⟩ := h.clean hr
  exact ⟨h.busy.trans hr, hdone, hnoinv, herr, h.lastOp l hp⟩

/-! ### The engine's moves -/

/-- A move of the sequencer touches its registers, the port's request, the results and STATUS, of which
it leaves CMD_OVR and LAST_OP. -/
theorem applyMove_frame (s : State) (mv : Move) :
    s.applyMove mv = { s with
      work := mv.work, phase := (s.applyMove mv).phase, xpend := (s.applyMove mv).xpend
      xacc := (s.applyMove mv).xacc, res0 := (s.applyMove mv).res0
      res1 := (s.applyMove mv).res1, res2 := (s.applyMove mv).res2
      status := (s.applyMove mv).status } ∧
    (s.applyMove mv).status.cmdOvr = s.status.cmdOvr ∧
    (s.applyMove mv).status.lastOp = s.status.lastOp := by
  obtain ⟨l, -, h⟩ | ⟨op, x, y, -, h⟩ | ⟨x, y, z, b, -, h⟩ | ⟨e, -, h⟩ := applyMove_cases s mv
  · rw [h]; exact ⟨rfl, rfl, rfl⟩
  · rw [h]; exact ⟨rfl, rfl, rfl⟩
  · obtain ⟨-, -, -, hc⟩ | hc := commit_cases { s with work := mv.work } x y z b <;>
      rw [h, hc] <;> exact ⟨rfl, rfl, rfl⟩
  · rw [h]; exact ⟨rfl, rfl, rfl⟩

theorem EngineMove.frame {s t : State} (h : EngineMove s t) :
    t = { s with
      work := t.work, phase := t.phase, xpend := t.xpend, xacc := t.xacc, xrsp := t.xrsp
      res0 := t.res0, res1 := t.res1, res2 := t.res2, status := t.status } ∧
    t.status.cmdOvr = s.status.cmdOvr ∧ t.status.lastOp = s.status.lastOp := by
  cases h with
  | start hp hx hv =>
    obtain ⟨hf, hc, ho⟩ := applyMove_frame s (startStep _ s.work)
    refine ⟨?_, hc, ho⟩
    rw [hf]
  | resume hp hv =>
    obtain ⟨hf, hc, ho⟩ := applyMove_frame s.takeResponse (resumeStep _ _ s.work)
    refine ⟨?_, hc, ho⟩
    rw [hf]; rfl
  | _ => exact ⟨rfl, rfl, rfl⟩

/-- A move of the sequencer changes a result only where it commits values that fit (R126, R127). -/
theorem applyMove_results (s : State) (mv : Move) :
    ((s.applyMove mv).res0 = s.res0 ∧ (s.applyMove mv).res1 = s.res1 ∧
      (s.applyMove mv).res2 = s.res2) ∨
    ((s.applyMove mv).phase = .idle ∧ (s.applyMove mv).status.err = .none ∧
      (s.applyMove mv).status.done = true ∧ (s.applyMove mv).status.busy = false) := by
  obtain ⟨l, -, h⟩ | ⟨op, x, y, -, h⟩ | ⟨x, y, z, b, -, h⟩ | ⟨e, -, h⟩ := applyMove_cases s mv
  · rw [h]; exact .inl ⟨rfl, rfl, rfl⟩
  · rw [h]; exact .inl ⟨rfl, rfl, rfl⟩
  · obtain ⟨-, -, -, hc⟩ | hc := commit_cases { s with work := mv.work } x y z b <;> rw [h, hc]
    · exact .inr ⟨rfl, rfl, rfl, rfl⟩
    · exact .inl ⟨rfl, rfl, rfl⟩
  · rw [h]; exact .inl ⟨rfl, rfl, rfl⟩

theorem EngineMove.results {s t : State} (h : EngineMove s t) :
    (t.res0 = s.res0 ∧ t.res1 = s.res1 ∧ t.res2 = s.res2) ∨
    (s.phase.running = true ∧ t.phase = .idle ∧ t.status.err = .none ∧ t.status.done = true ∧
      t.status.busy = false) := by
  cases h with
  | start hp hx hv => exact (applyMove_results s _).imp_right fun hc => ⟨by rw [hp]; rfl, hc⟩
  | resume hp hv =>
    exact (applyMove_results s.takeResponse _).imp_right fun hc => ⟨by rw [hp]; rfl, hc⟩
  | _ => exact .inl ⟨rfl, rfl, rfl⟩

/-- While a request waits for its response, the engine can only accept it or answer it (R33, R107). -/
theorem EngineMove.of_outstanding {s t : State} (h : EngineMove s t) {r : Request}
    (hrst : s.rst = false) (hx : s.xpend = some r) (hv : s.xrsp = none) :
    (s.xacc = false ∧ t = s.acceptRequest) ∨ (s.xacc = true ∧ t = s.respond r.result) := by
  cases h with
  | inReset hr          => simp [hrst] at hr
  | idle _ hx' _        => simp [hx] at hx'
  | discard _ hv'       => simp [hv] at hv'
  | handshake _ _ ha    => exact .inl ⟨ha, rfl⟩
  | answer hx' _ ha     => cases hx.symm.trans hx'; exact .inr ⟨ha, rfl⟩
  | start _ hx' _       => simp [hx] at hx'
  | resume _ hv'        => simp [hv] at hv'

/-! ### The port -/

/-- An offered request is accepted in the coming turn exactly if that is the engine's (log 28). -/
theorem xReqReady_of_outstanding {s : State} {r : Request} (hrst : s.rst = false)
    (hx : s.xpend = some r) (hv : s.xrsp = none) :
    s.xReqReady = (s.nextTurn == .engine && !s.xacc) := by
  simp [State.xReqReady, State.xReqValid, hrst, hx, hv]

/-! ### The statements -/

/-- Settles O16: only a move of the sequencer and the assertion of reset write the results. -/
theorem resultsChangeOnlyAtCompletion : Obligations.ResultsChangeOnlyAtCompletion := by
  intro s t hs hne
  have hsame : ¬ (t.res0 = s.res0 ∧ t.res1 = s.res1 ∧ t.res2 = s.res2) := by tauto
  obtain ⟨hn, hm⟩ | ⟨-, hm⟩ | ⟨hn, -⟩ | ⟨-, rfl⟩ | ⟨-, rfl⟩ := step_cases hs
  · exact .inl ⟨hn, hm.results.resolve_left hsame⟩
  · obtain ⟨-, -, h0, h1, h2, -⟩ := hm.frame
    exact absurd ⟨h0, h1, h2⟩ hsame
  · exact .inr hn
  · exact absurd ⟨rfl, rfl, rfl⟩ hsame
  · exact absurd ⟨rfl, rfl, rfl⟩ hsame

/-- Settles O17: the frame of each move of the engine. -/
theorem engineTurnFrame : Obligations.EngineTurnFrame := by
  intro s t hn hs
  rw [step_eq, hn] at hs
  exact (engineMove_of_engineTurn hs).frame

/-- Settles O18: a host move leaves the sequencer where it is, and then the invariant after the step
says what STATUS shows. -/
theorem hostAccessLeavesTheRunningCommandAlone :
    Obligations.HostAccessLeavesTheRunningCommandAlone := by
  intro s t h hr hn hs
  have hm : HostMove s.popTurn t := by
    obtain ⟨he, -⟩ | ⟨-, hm⟩ | ⟨he, -⟩ | ⟨he, -⟩ | ⟨⟨v, he⟩, -⟩ := step_cases hs
    case inr.inl => exact hm
    all_goals simp [he] at hn
  obtain ⟨-, -, h0, h1, h2, hx, ha, hv⟩ := hm.frame
  obtain ⟨hp, hw⟩ := hm.sequencer_of_running hr
  cases hl : s.phase with
  | idle  => rw [hl] at hr; cases hr
  | run l =>
    obtain ⟨hbusy, hdone, hnoinv, herr, hlast⟩ := inv_status_of_running (inv_step h hs) (hp.trans hl)
    exact ⟨hp.trans hl, hw, hx, ha, hv, h0, h1, h2, hbusy, hdone, hnoinv, herr,
      hlast.trans (h.lastOp l hl).symm⟩

/-- Settles O51: the engine's two moves on an outstanding request keep it, and the other agents do not
touch the port. -/
theorem outstandingRequestIsHeld : Obligations.OutstandingRequestIsHeld := by
  intro s t r h hs hx hv
  obtain ⟨l, hl⟩ := inv_running_of_xpend h hx
  have hr : s.phase.running = true := by rw [hl]; rfl
  have hrst : s.rst = false := inv_rst_of_running h hr
  rw [xReqReady_of_outstanding hrst hx hv]
  obtain ⟨hn, hm⟩ | ⟨hn, hm⟩ | ⟨hn, rfl⟩ | ⟨hn, rfl⟩ | ⟨⟨v, hn⟩, rfl⟩ := step_cases hs
  · obtain ⟨-, rfl⟩ | ⟨(ha : s.xacc = true), rfl⟩ := hm.of_outstanding hrst hx hv
    · exact .inr ⟨hx, rfl, rfl, by simp [hn], by simp [hv]⟩
    · exact .inr ⟨hx, rfl, rfl, by simp [ha], fun _ => ha⟩
  · obtain ⟨-, -, -, -, -, hx', ha', hv'⟩ := hm.frame
    obtain ⟨hp', hw'⟩ := hm.sequencer_of_running hr
    have hne : s.nextTurn ≠ .engine := by intro he; simp [he] at hn
    exact .inr ⟨hx'.trans hx, hp', hw', by simp [ha', hne], by simp [hv', hv]⟩
  · exact .inl ⟨hn, rfl⟩
  · exact .inr ⟨hx, rfl, rfl, by simp [hn], by simp [hv]⟩
  · exact .inr ⟨hx, rfl, rfl, by simp [hn], by simp [hv]⟩

end Sys2Proof.Machine
end

section
/-! STATUS, irq and the signals of R33 (O25, O26, O50, O52, O53). -/

namespace Sys2Proof.Machine

/-! ### STATUS and irq -/

/-- The one-bit fields of R25 and the reserved bit between them. -/
theorem Status.word_bits (st : Status) :
    st.word.getLsbD 0 = st.busy ∧ st.word.getLsbD 1 = st.done ∧ st.word.getLsbD 2 = st.noinv ∧
      st.word.getLsbD 3 = false ∧ st.word.getLsbD 8 = st.cmdOvr := by
  simp only [Status.word, BitVec.getLsbD_append]
  simp

/-! A wider field of R25 is what is left once the fields below it are taken off the concatenation. -/

theorem Status.word_err (st : Status) : st.word.extractLsb' 4 4 = st.err.code := by
  unfold Status.word
  iterate 4 rw [BitVec.extractLsb'_append_eq_of_le (by decide)]
  exact BitVec.extractLsb'_append_eq_right

theorem Status.word_reserved_low (st : Status) : st.word.extractLsb' 9 3 = 0#3 := by
  unfold Status.word
  iterate 6 rw [BitVec.extractLsb'_append_eq_of_le (by decide)]
  exact BitVec.extractLsb'_append_eq_right

theorem Status.word_lastOp (st : Status) : st.word.extractLsb' 12 4 = st.lastOp := by
  unfold Status.word
  iterate 7 rw [BitVec.extractLsb'_append_eq_of_le (by decide)]
  exact BitVec.extractLsb'_append_eq_right

theorem Status.word_reserved_high (st : Status) : st.word.extractLsb' 16 16 = 0#16 := by
  unfold Status.word
  iterate 8 rw [BitVec.extractLsb'_append_eq_of_le (by decide)]
  exact BitVec.extractLsb'_eq_self

/-- Settles O25: the fields one by one. -/
theorem statusWordLayout : Obligations.StatusWordLayout := by
  refine ⟨fun st => ?_, rfl, rfl, rfl, rfl, rfl⟩
  obtain ⟨hbusy, hdone, hnoinv, hreserved, hcmdOvr⟩ := st.word_bits
  exact ⟨hbusy, hdone, hnoinv, hreserved, st.word_err, hcmdOvr, st.word_reserved_low,
    st.word_lastOp, st.word_reserved_high⟩

/-- irq is low while DONE or DONE_IE is 0 (R34). -/
theorem irq_eq_false_iff (s : State) : s.irq = false ↔ s.doneIe = false ∨ s.status.done = false :=
  Bool.and_eq_false_iff

/-- Settles O26: each of the three ways clears DONE or DONE_IE. -/
theorem interruptIsDoneAndEnable : Obligations.InterruptIsDoneAndEnable := by
  refine ⟨fun s => rfl, fun s v hv => ?_, fun s c hp => ?_, fun s v hv => ?_, fun p => rfl⟩
  · exact (irq_eq_false_iff _).mpr (.inr (by simp [writeTarget, Status.writeOneToClear, hv]))
  · refine ⟨s.accept c, by rw [exec_command, issue_of_idle c hp], ?_⟩
    exact (irq_eq_false_iff _).mpr (.inr rfl)
  · exact (irq_eq_false_iff _).mpr (.inl hv)

/-! ### The primitive port -/

/-- Settles O50: the views of the port in such a state, and the engine's turn in it. -/
theorem handshakeAcceptsTheOfferedRequest : Obligations.HandshakeAcceptsTheOfferedRequest := by
  intro s r hrst hx ha hv
  have hvalid : s.xReqValid = true := by simp [State.xReqValid, hx, ha]
  refine ⟨hvalid, by simp [State.xReqOp, hvalid, hx], by simp [State.xReqX, hvalid, hx],
    by simp [State.xReqY, hvalid, hx], by simp [xReqReady_of_outstanding hrst hx hv, ha], ?_⟩
  intro hn
  refine ⟨s.popTurn.acceptRequest, ?_, rfl, by simp [State.xReqValid]⟩
  rw [step_eq, hn]
  simp [takeTurn, engineTurn, hrst, hx, hv, ha]

/-! ### The host port -/

/-- The legal accesses of R64, by the address as a number. -/
theorem legal_iff (a : Access) :
    a.legal = true ↔ a.be = 0b1111#4 ∧ a.addr.toNat % 4 = 0 := by
  simp [Access.legal, ← BitVec.toNat_inj, BitVec.extractLsb'_toNat]

@[simp] theorem hResp_wrote (r : Resp) : (BusReply.wrote r).hResp = some r.bit := rfl
@[simp] theorem hResp_read (r : Resp) (d : Word) : (BusReply.read r d).hResp = some r.bit := rfl
@[simp] theorem hRdata_wrote (r : Resp) : (BusReply.wrote r).hRdata = none := rfl
@[simp] theorem hRdata_read (r : Resp) (d : Word) : (BusReply.read r d).hRdata = some d := rfl
@[simp] theorem okay_bit : Resp.okay.bit = 0#1 := rfl
@[simp] theorem error_bit : Resp.error.bit = 1#1 := rfl

/-- A CMD write does not touch the answer on the bus. -/
theorem commandWrite_busReply {v : Word} {s t : State}
    (h : commandWrite exec v s = .next t) : t.busReply = s.busReply := by
  obtain ⟨c, -, hc⟩ | ⟨-, hc⟩ := commandWrite_cases v s <;> cases h.symm.trans hc <;> simp

/-- The block's answer to an access: whether it is legal, and data for a read (R64 to R66). -/
theorem portAccess_busReply {a : Access} {s t : State} (h : portAccess exec a s = .next t) :
    t.busReply.hResp = some (if a.legal then 0#1 else 1#1) ∧
      t.busReply.hRdata.isSome = !a.we := by
  obtain ⟨-, ⟨hl, rfl⟩ | ⟨hl, hw, -, hc⟩ | ⟨hl, hw, -, rfl⟩ | ⟨hl, hw, rfl⟩⟩ := portAccess_cases h
  · cases hw : a.we <;> simp [hl, hw]
  · simp [commandWrite_busReply hc, hl, hw]
  · simp [hl, hw]
  · simp [hl, hw]

/-- Settles O52: the answer by legality, and legality by the address. -/
theorem busResponseIsOkayOrError : Obligations.BusResponseIsOkayOrError := by
  intro s a hrst
  obtain ⟨t, ht⟩ := portAccess_next a hrst
  obtain ⟨hresp, hdata⟩ := portAccess_busReply ht
  exact ⟨t, ht, by simpa only [legal_iff] using hresp, hdata⟩

/-! ### The reset pin -/

/-- The pin is 1 exactly where an active-high reset is asserted or an active-low one released. -/
theorem rstPin_iff (s : State) :
    s.rstPin = true ↔ (s.params.rstStyle.polarity = .activeHigh ↔ s.rst = true) := by
  unfold State.rstPin
  cases s.params.rstStyle.polarity <;> simp

/-- Settles O53: the level of the pin after each of the two turns. -/
theorem resetPinFollowsItsPolarity : Obligations.ResetPinFollowsItsPolarity := by
  rintro s (hn | hn)
  · exact ⟨s.popTurn.assertReset, by rw [step_eq, hn]; rfl, by simp [rstPin_iff, hn]⟩
  · exact ⟨s.popTurn.releaseReset, by rw [step_eq, hn]; rfl, by simp [rstPin_iff, hn]⟩

end Sys2Proof.Machine
end

section
/-! Which accesses are answered with ERROR, and that a host program makes none (O23, O30). -/

namespace Sys2Proof.Machine

/-! ### Illegal accesses -/

/-- An access that R64 does not allow gets the bus error of R65. -/
theorem portAccess_of_illegal {s : State} {a : Access} (hrst : s.rst = false)
    (hl : a.legal = false) : portAccess exec a s = .next (s.busError a) := by
  obtain ⟨t, ht⟩ := portAccess_next a hrst
  obtain ⟨-, ⟨-, rfl⟩ | ⟨hl', -⟩ | ⟨hl', -⟩ | ⟨hl', -⟩⟩ := portAccess_cases ht
  · exact ht
  all_goals simp [hl] at hl'

/-- Settles O23: such an access is not legal, and its bus error writes the answer only. -/
theorem illegalAccessChangesNothing : Obligations.IllegalAccessChangesNothing := by
  intro s a hrst hbad
  refine portAccess_of_illegal hrst (Bool.eq_false_iff.mpr fun hl => ?_)
  obtain ⟨hbe, haddr⟩ := (legal_iff a).mp hl
  exact hbad.elim (· hbe) (· haddr)

/-! ### The accesses of a host program -/

theorem offset_mod_four (r : RegName) : offset r % 4 = 0 := by
  cases r with
  | op x  => cases x <;> rfl
  | res x => cases x <;> rfl
  | _     => rfl

/-- The words that `wr` and `rd` name are aligned: the window is (R60), and the map R21 is. -/
theorem wordAddress_mod_four {p : Params} (hp : p.Wf) (r : RegName) (k : Nat) :
    wordAddress p r k % 4 = 0 := by
  obtain ⟨-, -, -, hbase⟩ := hp
  have hoff := offset_mod_four r
  unfold wordAddress
  omega

theorem windowAccess_legal {p : Params} {addr : Nat} {we : Bool} {v : Word} {a : Access}
    (haddr : addr % 4 = 0) (h : windowAccess p addr we v = some a) : a.legal = true := by
  unfold windowAccess at h
  split at h <;> cases h
  refine (legal_iff _).mpr ⟨rfl, ?_⟩
  rw [BitVec.toNat_ofNat, Nat.mod_mod_of_dvd _ (by decide), haddr]

/-- With legal parameters, every access of a host program is legal (R64, R90). -/
theorem stmtAccess_legal_of_wf {p : Params} (hp : p.Wf) {st : HostStmt} {a : Access}
    (h : stmtAccess p st = some a) : a.legal = true := by
  cases st with
  | wr r k imm => exact windowAccess_legal (wordAddress_mod_four hp r k) h
  | rd r k x   => exact windowAccess_legal (wordAddress_mod_four hp r k) h
  | _          => cases h

@[simp] theorem afterAccess_busReply (st : HostStmt) (s : State) :
    (afterAccess st s).busReply = s.busReply := by
  rw [afterAccess_eq]

/-- `hostLine_cases` for the answer on the bus, with the access that the line itself makes. -/
theorem hostLine_busReply {st : HostStmt} {s t : State} (h : hostLine exec st s = .next t) :
    t.busReply = s.busReply ∨
    ∃ a u, stmtAccess s.params st = some a ∧
      portAccess exec a (s.hostAt (s.host.pc + 1)) = .next u ∧ t.busReply = u.busReply := by
  unfold hostLine at h
  split at h
  · cases h; exact .inl rfl
  · cases h
  · split at h
    · cases h
    · split at h <;> cases h
      exact .inr ⟨_, _, ‹_›, ‹_›, afterAccess_busReply _ _⟩

theorem isError_iff_hResp (r : BusReply) : r.isError = true ↔ r.hResp = some 1#1 := by
  rcases r with _ | (_ | _) | ⟨_ | _, d⟩ <;> simp [BusReply.isError, BusReply.hResp]

/-- A legal access is answered OKAY (R64). -/
theorem isError_of_legal {a : Access} {s t : State} (hl : a.legal = true)
    (h : portAccess exec a s = .next t) : t.busReply.isError = false := by
  obtain ⟨hresp, -⟩ := portAccess_busReply h
  rw [Bool.eq_false_iff, ne_eq, isError_iff_hResp, hresp]
  simp [hl]

/-- Settles O30: a line leaves the answer on the bus alone or makes one legal access. -/
theorem hostProgramMakesLegalAccessesOnly : Obligations.HostProgramMakesLegalAccessesOnly := by
  intro s t hp hn hok hs
  rw [step_eq, hn] at hs
  obtain rfl | ⟨st, -, hl⟩ := hostTurn_cases hs
  · exact hok
  · obtain hr | ⟨a, u, ha, hu, hr⟩ := hostLine_busReply hl <;> rw [hr]
    · exact hok
    · exact isError_of_legal (stmtAccess_legal_of_wf hp ha) hu

end Sys2Proof.Machine
end

section
/-! An operand write beside a turn of the engine (O48). -/

namespace Sys2Proof.Machine

/-! ### The write -/

/-- What a legal write of `v` to word `k` of an operand register leaves, in the turn that stands first
in the schedule (R121; `step_operandWrite`). -/
def State.operandWriteTurn (s : State) (r : OpReg) (k : Nat) (v : Word) : State :=
  writeTarget { s.popTurn with busReply := .wrote .okay } v (.opWord r k)

theorem step_operandWrite {s : State} {a : Access} {r : OpReg} {k : Nat} (hrst : s.rst = false)
    (hn : s.nextTurn = .access a) (hl : a.legal = true) (hw : a.we = true)
    (ht : s.targetOf a = .opWord r k) : step s = .next (s.operandWriteTurn r k a.wdata) := by
  have ht' : s.popTurn.targetOf a = .opWord r k := ht
  rw [step_eq, hn]
  simp [takeTurn, portAccess, hrst, hl, hw, ht', State.operandWriteTurn]

/-! ### The write leaves alone what the engine reads, and commutes with each of its operations -/

section
variable (s : State) (r : OpReg) (k : Nat) (v : Word)

@[simp] theorem operandWriteTurn_params : (s.operandWriteTurn r k v).params = s.params := by
  simp [State.operandWriteTurn]
@[simp] theorem operandWriteTurn_rst : (s.operandWriteTurn r k v).rst = s.rst := by
  simp [State.operandWriteTurn]
@[simp] theorem operandWriteTurn_work : (s.operandWriteTurn r k v).work = s.work := by
  simp [State.operandWriteTurn]
@[simp] theorem operandWriteTurn_phase : (s.operandWriteTurn r k v).phase = s.phase := by
  simp [State.operandWriteTurn]
@[simp] theorem operandWriteTurn_xpend : (s.operandWriteTurn r k v).xpend = s.xpend := by
  simp [State.operandWriteTurn]
@[simp] theorem operandWriteTurn_xacc : (s.operandWriteTurn r k v).xacc = s.xacc := by
  simp [State.operandWriteTurn]
@[simp] theorem operandWriteTurn_xrsp : (s.operandWriteTurn r k v).xrsp = s.xrsp := by
  simp [State.operandWriteTurn]

theorem acceptRequest_operandWriteTurn :
    (s.operandWriteTurn r k v).acceptRequest = s.acceptRequest.operandWriteTurn r k v := by
  cases r <;> rfl

theorem respond_operandWriteTurn (x : Int) :
    (s.operandWriteTurn r k v).respond x = (s.respond x).operandWriteTurn r k v := by
  cases r <;> rfl

theorem takeResponse_operandWriteTurn :
    (s.operandWriteTurn r k v).takeResponse = s.takeResponse.operandWriteTurn r k v := by
  cases r <;> rfl

theorem setWork_operandWriteTurn (w : Work) :
    { s.operandWriteTurn r k v with work := w } =
      State.operandWriteTurn { s with work := w } r k v := by
  cases r <;> rfl

theorem commit_operandWriteTurn (v0 v1 v2 : Int) (noinv : Bool) :
    (s.operandWriteTurn r k v).commit v0 v1 v2 noinv =
      (s.commit v0 v1 v2 noinv).operandWriteTurn r k v := by
  simp only [State.commit, operandWriteTurn_params]
  split <;> cases r <;> rfl

theorem applyMove_operandWriteTurn (mv : Move) :
    (s.operandWriteTurn r k v).applyMove mv = (s.applyMove mv).operandWriteTurn r k v := by
  obtain ⟨w, nx⟩ := mv
  cases nx with
  | commit v0 v1 v2 noinv =>
    simp only [State.applyMove, setWork_operandWriteTurn, commit_operandWriteTurn]
  | _ => cases r <;> rfl
end

/-! ### The engine's turn -/

/-- The engine's turn always has a next state (R130). -/
theorem engineTurn_next (s : State) : ∃ t, engineTurn exec s = .next t := by
  obtain ⟨-, h⟩ | ⟨-, _, -, -, ⟨-, h⟩ | ⟨-, h⟩⟩ | ⟨-, -, -, -, h⟩ | ⟨-, -, -, h⟩ |
    ⟨-, _, -, ⟨_, -, h⟩ | ⟨-, -, h⟩⟩ := engineTurn_cases s <;> exact ⟨_, h⟩

/-- The engine reads no operand register: its turn does the same beside an operand write (R72). -/
theorem engineTurn_operandWriteTurn {s t : State} (h : engineTurn exec s = .next t) (r : OpReg)
    (k : Nat) (v : Word) :
    engineTurn exec (s.operandWriteTurn r k v) = .next (t.operandWriteTurn r k v) := by
  obtain ⟨hrst, ht⟩ | ⟨hrst, q, hx, hv, ⟨ha, ht⟩ | ⟨ha, ht⟩⟩ | ⟨hrst, hp, hx, hv, ht⟩ |
    ⟨hrst, hp, ⟨x, hv⟩, ht⟩ | ⟨hrst, l, hp, ⟨x, hv, ht⟩ | ⟨hx, hv, ht⟩⟩ := engineTurn_cases s <;>
    cases ht.symm.trans h
  · simp [engineTurn, hrst]
  · simp [engineTurn, hrst, hx, hv, ha, acceptRequest_operandWriteTurn]
  · simp [engineTurn, hrst, hx, hv, ha, respond_operandWriteTurn]
  · simp [engineTurn, State.sequencerTurn, hrst, hx, hv, hp]
  · simp [engineTurn, State.sequencerTurn, hrst, hv, hp, takeResponse_operandWriteTurn]
  · simp [engineTurn, State.sequencerTurn, hrst, hv, hp, takeResponse_operandWriteTurn,
      applyMove_operandWriteTurn]
  · simp [engineTurn, State.sequencerTurn, hrst, hx, hv, hp, applyMove_operandWriteTurn]

/-! ### The statement -/

theorem reaches_succ_iff_of_step {s u t : State} {n : Nat} (h : step s = .next u) :
    Reaches (n + 1) s t ↔ Reaches n u t := by
  simp [Reaches, h]

/-- Settles O48: the write is `operandWriteTurn` in both orders, and the engine's turn commutes with
it. -/
theorem operandWriteCommutesWithTheEngine : Obligations.OperandWriteCommutesWithTheEngine := by
  intro s t a r k rest hrst hl hw htgt
  obtain ⟨e, he⟩ := engineTurn_next { s with sched := .access a :: rest }
  have hwrite := step_operandWrite (s := { s with sched := .access a :: .engine :: rest })
    hrst rfl hl hw htgt
  have hafter : step (State.operandWriteTurn { s with sched := .access a :: .engine :: rest }
      r k a.wdata) = .next (e.operandWriteTurn r k a.wdata) := by
    rw [← engineTurn_operandWriteTurn he]
    cases r <;> rfl
  have hengine : step { s with sched := .engine :: .access a :: rest } = .next e := he
  have hbefore : step e = .next (e.operandWriteTurn r k a.wdata) := by
    obtain ⟨hf, -⟩ := (engineMove_of_engineTurn he).frame
    refine step_operandWrite ?_ ?_ hl hw ?_ <;> rw [hf]
    · exact hrst
    · rfl
    · exact htgt
  rw [reaches_succ_iff_of_step hwrite, reaches_succ_iff_of_step hafter,
    reaches_succ_iff_of_step hengine, reaches_succ_iff_of_step hbefore]

end Sys2Proof.Machine
end

section
/-! The encoding of spec/30_encoding.md R80 to R83 (O1, O2, O3, O4). -/

namespace Sys2Proof

/-! ### The fields of a port vector -/

/-- A value in the range of `n` signed bits reads back from its two's-complement pattern (R8). -/
theorem toInt_ofInt_of_fitsBits {n : Nat} {v : Int} (hn : 0 < n) (h : fitsBits n v = true) :
    (BitVec.ofInt n v).toInt = v := by
  simp only [fitsBits, Bool.and_eq_true, decide_eq_true_eq] at h
  obtain ⟨hlow, hhigh⟩ := h
  exact BitVec.toInt_ofInt_eq_self hn hlow (by omega)

section
variable (ww : Nat) (op : PrimOp) (x y : Int)

theorem encodeReq_op : (encodeReq ww op x y).extractLsb' (ww + ww) 3 = op.code :=
  Laws.extractLsb'_append_top op.code (BitVec.ofInt ww x) (BitVec.ofInt ww y)

theorem encodeReq_x : (encodeReq ww op x y).extractLsb' ww ww = BitVec.ofInt ww x := by
  rw [encodeReq, BitVec.extractLsb'_append_eq_of_le le_rfl, Nat.sub_self]
  exact BitVec.extractLsb'_append_eq_right

theorem encodeReq_y : (encodeReq ww op x y).extractLsb' 0 ww = BitVec.ofInt ww y :=
  BitVec.extractLsb'_append_eq_right
end

/-- Settles O3: the fields of the vector, the operands read back with their signs. -/
theorem portVectorCarriesOpAndOperands : Obligations.PortVectorCarriesOpAndOperands := by
  intro ww op x y hww hx hy
  rw [encodeReq_op, encodeReq_x, encodeReq_y]
  exact ⟨rfl, toInt_ofInt_of_fitsBits hww hx, toInt_ofInt_of_fitsBits hww hy⟩

/-! ### Decode of encode -/

/-- The decoder gives back a request whose operands fit the port (R83). -/
theorem decodeReq_encodeReq {ww : Nat} (hww : 0 < ww) (op : PrimOp) {x y : Int}
    (hx : fitsBits ww x = true) (hy : fitsBits ww y = true) :
    decodeReq (encodeReq ww op x y) = .instr (op.instr x y) := by
  unfold decodeReq
  rw [encodeReq_op, encodeReq_x, encodeReq_y, toInt_ofInt_of_fitsBits hww hx,
    toInt_ofInt_of_fitsBits hww hy]
  cases op <;> rfl

/-- Settles O1: a command by its word, a request by the fields of its vector. -/
theorem decodeOfEncodeIsTheInstruction : Obligations.DecodeOfEncodeIsTheInstruction := by
  intro ww i hww hwf
  have request (op : PrimOp) {x y : Int} (h : (fitsBits ww x && fitsBits ww y) = true) :
      decodeReq (encodeReq ww op x y) = .instr (op.instr x y) :=
    have ⟨hx, hy⟩ := Bool.and_eq_true_iff.mp h
    decodeReq_encodeReq hww op hx hy
  cases i with
  | isprime => exact Machine.decodeCmd_word .isprime
  | egcd    => exact Machine.decodeCmd_word .egcd
  | modinv  => exact Machine.decodeCmd_word .modinv
  | modpow  => exact Machine.decodeCmd_word .modpow
  | add x y => exact request .add hwf
  | sub x y => exact request .sub hwf
  | mul x y => exact request .mul hwf
  | div x y => exact request .div hwf
  | mod x y => exact request .mod hwf

/-! ### The legal command words -/

/-- The words that decode are those of the four commands (R82). -/
theorem decodeCmd_eq_instr_iff (v : Word) (i : Instr) :
    decodeCmd v = .instr i ↔ ∃ c : Command, i = c.instr ∧ v = c.word := by
  refine ⟨Machine.decodeCmd_instr, ?_⟩
  rintro ⟨c, rfl, rfl⟩
  exact Machine.decodeCmd_word c

/-- A word is a command's exactly when RSV = 0 and OP is the command's (R80, R81). -/
theorem eq_word_iff (v : Word) (c : Command) :
    v = c.word ↔ v.extractLsb' 4 28 = 0#28 ∧ v.extractLsb' 0 4 = c.op := by
  constructor
  · rintro rfl
    exact ⟨BitVec.extractLsb'_append_eq_left, BitVec.extractLsb'_append_eq_right⟩
  · rintro ⟨hrsv, hop⟩
    calc v = v.extractLsb' 0 (28 + 4) := BitVec.extractLsb'_eq_self.symm
      _ = v.extractLsb' 4 28 ++ v.extractLsb' 0 4 :=
        (BitVec.extractLsb'_append_extractLsb'_eq_extractLsb' rfl).symm
      _ = c.word := by rw [hrsv, hop, Command.word]

theorem exists_command_iff {P : Command → Prop} :
    (∃ c, P c) ↔ P .isprime ∨ P .egcd ∨ P .modinv ∨ P .modpow := by
  constructor
  · rintro ⟨c, hc⟩
    cases c <;> simp [hc]
  · rintro (h | h | h | h) <;> exact ⟨_, h⟩

/-- Settles O2: the words that decode are the four commands', by their fields and as numbers. -/
theorem legalCommandWordsAreExactlyFour : Obligations.LegalCommandWordsAreExactlyFour := by
  constructor
  · intro v
    calc (∃ i, decodeCmd v = .instr i)
        ↔ ∃ c : Command, v = c.word := by simp [decodeCmd_eq_instr_iff]
      _ ↔ v.extractLsb' 4 28 = 0#28 ∧ ∃ c : Command, v.extractLsb' 0 4 = c.op := by
        simp only [eq_word_iff, exists_and_left]
      _ ↔ _ := and_congr_right fun _ => exists_command_iff
  · intro v i
    exact (decodeCmd_eq_instr_iff v i).trans exists_command_iff

/-! ### Sample words -/

/-- Settles O4: the legal samples are words of commands and vectors of requests. -/
theorem sampleWordsDecode : Obligations.SampleWordsDecode := by
  refine ⟨Machine.decodeCmd_word .isprime, Machine.decodeCmd_word .egcd,
    Machine.decodeCmd_word .modinv, Machine.decodeCmd_word .modpow, by decide, by decide, ?_, ?_⟩
  · exact decodeReq_encodeReq (ww := 4) (by decide) .add (x := 2) (y := 2) (by decide) (by decide)
  · exact decodeReq_encodeReq (ww := 4) (by decide) .mod (x := -3) (y := 5) (by decide) (by decide)

end Sys2Proof
end

section
/-! One line of the host's program, and the dispatch of a command (O5, O6, O29). -/

namespace Sys2Proof.Machine

/-! ### Legal accesses with reset released (R64, R120 to R122) -/

/-- A legal write to CMD of a word that decodes runs its instruction (R82, R122). -/
theorem portAccess_command {s : State} {a : Access} {i : Instr} (hrst : s.rst = false)
    (hl : a.legal = true) (hw : a.we = true) (ht : s.targetOf a = .cmd)
    (hi : decodeCmd a.wdata = .instr i) :
    portAccess exec a s = exec i { s with busReply := .wrote .okay } := by
  simp [portAccess, commandWrite, hrst, hl, hw, ht, hi]

/-- A legal write to any other word (R121). -/
theorem portAccess_write {s : State} {a : Access} (hrst : s.rst = false) (hl : a.legal = true)
    (hw : a.we = true) (ht : s.targetOf a ≠ .cmd) :
    portAccess exec a s =
      .next (writeTarget { s with busReply := .wrote .okay } a.wdata (s.targetOf a)) := by
  simp [portAccess, hrst, hl, hw, ht]

/-- A legal read (R120). -/
theorem portAccess_read {s : State} {a : Access} (hrst : s.rst = false) (hl : a.legal = true)
    (hw : a.we = false) :
    portAccess exec a s =
      .next { s with busReply := .read .okay (readTarget s (s.targetOf a)) } := by
  simp [portAccess, hrst, hl, hw]

theorem nextTurn_of_sched {s : State} {t : Turn} {rest : List Turn} (h : s.sched = t :: rest) :
    s.nextTurn = t := by
  simp [State.nextTurn, h]

/-- Settles O5: the access is legal and names CMD, so it is the write of its word. -/
theorem stepRunsTheWrittenCommand : Obligations.StepRunsTheWrittenCommand := by
  intro s a rest i hsched hrst hbe haddr hwe hdec
  have hlegal : a.legal = true := (legal_iff a).mpr ⟨hbe, by rw [haddr]; rfl⟩
  have htarget : s.popTurn.targetOf a = .cmd := by rw [State.targetOf, haddr]; rfl
  rw [step_eq, nextTurn_of_sched hsched]
  calc portAccess exec a s.popTurn
      = exec i { s.popTurn with busReply := .wrote .okay } :=
        portAccess_command (s := s.popTurn) hrst hlegal hwe htarget hdec
    _ = exec i { s with sched := rest, busReply := .wrote .okay } := by
        rw [State.popTurn, hsched, List.tail_cons]

/-! ### The accesses of `wr` and `rd` (R21, R60, R90) -/

/-- The access of `wr` or `rd` to a word of the window, as the block sees it (`stmtAccess_wr`,
`stmtAccess_rd`). -/
def wordAccess (we : Bool) (r : RegName) (k : Nat) (v : Word) : Access :=
  { we := we, addr := BitVec.ofNat 12 (offset r + 4 * k), be := 0b1111#4, wdata := v }

/-- NTE_BASE is aligned to the window, so its low 12 bits do not reach the block (R60). -/
theorem windowAccess_wordAddress {p : Params} (hp : p.Wf) {r : RegName} {k : Nat}
    (hk : offset r + 4 * k < 4096) (we : Bool) (v : Word) :
    windowAccess p (wordAddress p r k) we v = some (wordAccess we r k v) := by
  obtain ⟨-, -, -, hbase⟩ := hp
  have haddr : BitVec.ofNat 12 (wordAddress p r k) = BitVec.ofNat 12 (offset r + 4 * k) := by
    rw [← BitVec.toNat_inj, BitVec.toNat_ofNat, BitVec.toNat_ofNat, wordAddress]
    omega
  rw [windowAccess, if_pos (by unfold wordAddress; omega), haddr, wordAccess]

theorem stmtAccess_wr {p : Params} (hp : p.Wf) {r : RegName} {k : Nat}
    (hk : offset r + 4 * k < 4096) (v : Word) :
    stmtAccess p (.wr r k v) = some (wordAccess true r k v) :=
  windowAccess_wordAddress hp hk true v

theorem stmtAccess_rd {p : Params} (hp : p.Wf) {r : RegName} {k : Nat}
    (hk : offset r + 4 * k < 4096) (x : Nat) :
    stmtAccess p (.rd r k x) = some (wordAccess false r k 0#32) :=
  windowAccess_wordAddress hp hk false 0#32

theorem wordAccess_legal (we : Bool) (r : RegName) (k : Nat) (v : Word) :
    (wordAccess we r k v).legal = true := by
  have hoff := offset_mod_four r
  refine (legal_iff _).mpr ⟨rfl, ?_⟩
  rw [wordAccess, BitVec.toNat_ofNat]
  omega

theorem targetOf_wordAccess (s : State) {r : RegName} {k : Nat} (hk : offset r + 4 * k < 4096)
    (we : Bool) (v : Word) :
    s.targetOf (wordAccess we r k v) = target s.params.nw (offset r + 4 * k) := by
  rw [State.targetOf, wordAccess, BitVec.toNat_ofNat, Nat.mod_eq_of_lt hk]

/-! ### One turn of the host -/

theorem quietLine_of_stmtAccess {p : Params} {st : HostStmt} {a : Access}
    (ha : stmtAccess p st = some a) (h : HostAgent) : quietLine p h st = none := by
  cases st with
  | wr r k v => rfl
  | rd r k x => rfl
  | _        => cases ha

/-- A turn of the host at a line that makes an access (R90). -/
theorem step_hostAccess {s t : State} {st : HostStmt} {a : Access} (hn : s.nextTurn = .host)
    (hline : s.host.prog[s.host.pc]? = some st) (ha : stmtAccess s.params st = some a)
    (ht : portAccess exec a (s.popTurn.hostAt (s.host.pc + 1)) = .next t) :
    step s = .next (afterAccess st t) := by
  rw [step_eq, hn]
  simp [takeTurn, hostTurn, hostLine, hline, quietLine_of_stmtAccess ha, ha, ht]

/-- A turn of the host at a line that makes no access (R90). -/
theorem step_of_quiet {s : State} {h : HostAgent} (hn : s.nextTurn = .host)
    (hq : quietTurn s.params s.host = some h) : step s = .next { s.popTurn with host := h } := by
  rw [step_eq, hn]
  exact hostTurn_of_quiet exec hq

/-- Settles O6: the line's access is a legal write to CMD, of a word that decodes to the command. -/
theorem stepRunsTheHostsCommandLine : Obligations.StepRunsTheHostsCommandLine := by
  intro s c hp hrst hn hline
  have hcmd : offset .cmd + 4 * 0 < 4096 := by decide
  have haccess := portAccess_command (s := s.popTurn.hostAt (s.host.pc + 1))
    (a := wordAccess true .cmd 0 c.word) hrst (wordAccess_legal true .cmd 0 c.word) rfl
    (targetOf_wordAccess _ hcmd true c.word) (decodeCmd_word c)
  rw [exec_command] at haccess ⊢
  exact step_hostAccess hn hline (stmtAccess_wr hp hcmd c.word) haccess

/-- Where `bne` goes (R90). -/
theorem quietTurn_bne (p : Params) {h : HostAgent} {x l line : Nat} {mask value v : Int}
    (hline : h.prog[h.pc]? = some (.bne x mask value l)) (hx : lookupVar h.vars x = some v)
    (hl : labelLine l h.prog = some line) :
    quietTurn p h = some (h.goto (if intAnd v mask = value then h.pc + 1 else line)) := by
  by_cases hv : intAnd v mask = value <;> simp [quietTurn, quietLine, hline, hx, hl, hv]

/-- Settles O29: AND by `intAnd_testBit`; the turn at a `bne` makes no access. -/
theorem branchFollowsTheMaskedCompare : Obligations.BranchFollowsTheMaskedCompare :=
  ⟨intAnd_testBit, fun s _ _ _ _ _ _ hn hline hx hl =>
    step_of_quiet hn (quietTurn_bne s.params hline hx hl)⟩

end Sys2Proof.Machine
end

section
/-! The pseudo-instructions `ld` and `get` of spec/30_encoding.md R91 (O27, O28). -/

namespace Sys2Proof.Machine

/-! ### Runs -/

theorem Reaches.snoc {n : Nat} {s t u : State} (h : Reaches n s t) (ht : step t = .next u) :
    Reaches (n + 1) s u := by
  induction n generalizing s with
  | zero =>
    obtain rfl : s = t := h
    exact ⟨u, ht, rfl⟩
  | succ n ih =>
    obtain ⟨s', hs, hs'⟩ := h
    exact ⟨s', hs, ih hs'⟩

/-- A run along the states `f 0`, `f 1`, …. -/
theorem reaches_of_steps {f : Nat → State} {n : Nat}
    (h : ∀ k < n, step (f k) = .next (f (k + 1))) : Reaches n (f 0) (f n) := by
  induction n with
  | zero => rfl
  | succ n ih => exact (ih fun k hk => h k (by omega)).snoc (h n (by omega))

/-- The turn after `n` turns of the schedule. -/
theorem nextTurn_of_drop {s : State} {ts : List Turn} {n : Nat} {t : Turn}
    (hs : s.sched = ts.drop n) (ht : ts[n]? = some t) : s.nextTurn = t := by
  obtain ⟨hn, rfl⟩ := List.getElem?_eq_some_iff.mp ht
  exact nextTurn_of_sched (hs.trans (List.drop_eq_getElem_cons hn))

/-! ### The words of the operand and result registers in the window (R6, R21) -/

/-- The words of W bits fill at least one word, and at most the 256 bytes of a register. -/
theorem nw_of_wf {p : Params} (hp : p.Wf) : 32 * p.nw = p.w ∧ 0 < p.nw ∧ p.nw ≤ 64 := by
  obtain ⟨hmul, hmin, hmax, -⟩ := hp
  unfold Params.nw
  omega

theorem offset_le (r : RegName) : offset r ≤ 0x600 := by
  cases r with
  | op x  => cases x <;> decide
  | res x => cases x <;> decide
  | _     => decide

theorem word_in_window {p : Params} (hp : p.Wf) (r : RegName) {k : Nat} (hk : k < p.nw) :
    offset r + 4 * k < 4096 := by
  obtain ⟨-, -, hnw⟩ := nw_of_wf hp
  have hoff := offset_le r
  omega

/-- Above the first 256 bytes of the window, the register is the offset's page of 256 bytes and the
word is the place in it. -/
theorem word_of_page {base k : Nat} (hbase : base % 0x100 = 0) (hk : k < 64) :
    (base + 4 * k) % 0x100 / 4 = k ∧ (base + 4 * k) / 0x100 = base / 0x100 := by
  omega

theorem target_opWord {p : Params} (hp : p.Wf) (r : OpReg) {k : Nat} (hk : k < p.nw) :
    target p.nw (offset (.op r) + 4 * k) = .opWord r k := by
  obtain ⟨-, -, hnw⟩ := nw_of_wf hp
  obtain ⟨hpage, habove⟩ : offset (.op r) % 0x100 = 0 ∧ 0x100 ≤ offset (.op r) := by
    cases r <;> decide
  obtain ⟨hword, hreg⟩ := word_of_page hpage (hk.trans_le hnw)
  rw [target.eq_def, if_neg (by omega), hword, if_pos hk, hreg]
  cases r <;> rfl

theorem target_resWord {p : Params} (hp : p.Wf) (r : ResReg) {k : Nat} (hk : k < p.nw) :
    target p.nw (offset (.res r) + 4 * k) = .resWord r k := by
  obtain ⟨-, -, hnw⟩ := nw_of_wf hp
  obtain ⟨hpage, habove⟩ : offset (.res r) % 0x100 = 0 ∧ 0x100 ≤ offset (.res r) := by
    cases r <;> decide
  obtain ⟨hword, hreg⟩ := word_of_page hpage (hk.trans_le hnw)
  rw [target.eq_def, if_neg (by omega), hword, if_pos hk, hreg]
  cases r <;> rfl

/-! ### Lines that write an operand word or read a result word (R90) -/

theorem step_wr_operand {s : State} {r : OpReg} {k : Nat} {v : Word} (hp : s.params.Wf)
    (hrst : s.rst = false) (hn : s.nextTurn = .host) (hk : k < s.params.nw)
    (hline : s.host.prog[s.host.pc]? = some (.wr (.op r) k v)) :
    step s = .next ((s.hostAt (s.host.pc + 1)).operandWriteTurn r k v) := by
  have hwin := word_in_window hp (.op r) hk
  have htarget : (s.popTurn.hostAt (s.host.pc + 1)).targetOf (wordAccess true (.op r) k v) =
      .opWord r k := (targetOf_wordAccess _ hwin true v).trans (target_opWord hp r hk)
  have haccess := portAccess_write (s := s.popTurn.hostAt (s.host.pc + 1)) hrst
    (wordAccess_legal true (.op r) k v) rfl (by rw [htarget]; nofun)
  rw [htarget] at haccess
  exact step_hostAccess hn hline (stmtAccess_wr hp hwin v) haccess

/-- What a line `rd RESk[k] -> x` leaves (R63, R90; `step_rd_result`). -/
def State.resultReadTurn (s : State) (r : ResReg) (k x : Nat) : State :=
  let word := (s.resReg r).getD k 0#32
  { s with
    sched    := s.sched.tail
    host     := { s.host with pc := s.host.pc + 1, vars := assignVar s.host.vars x word.toNat }
    busReply := .read .okay word }

theorem step_rd_result {s : State} {r : ResReg} {k x : Nat} (hp : s.params.Wf)
    (hrst : s.rst = false) (hn : s.nextTurn = .host) (hk : k < s.params.nw)
    (hline : s.host.prog[s.host.pc]? = some (.rd (.res r) k x)) :
    step s = .next (s.resultReadTurn r k x) := by
  have hwin := word_in_window hp (.res r) hk
  have htarget : (s.popTurn.hostAt (s.host.pc + 1)).targetOf (wordAccess false (.res r) k 0#32) =
      .resWord r k := (targetOf_wordAccess _ hwin false 0#32).trans (target_resWord hp r hk)
  have haccess := portAccess_read (s := s.popTurn.hostAt (s.host.pc + 1)) hrst
    (wordAccess_legal false (.res r) k 0#32) rfl
  rw [htarget] at haccess
  rw [step_hostAccess hn hline (stmtAccess_rd hp hwin x) haccess]
  cases r <;> rfl

/-! ### The value of a register (R8, R63) -/

/-- The words of a value that fits W signed bits hold it. -/
theorem valueOf_wordsOf {p : Params} (hp : p.Wf) {v : Int} (hv : fitsW p.w v = true) :
    valueOf p (wordsOf p v) = v := by
  obtain ⟨hbits, hnw, -⟩ := nw_of_wf hp
  have hpattern : patternOf p (wordsOf p v) = encW p.w v := by
    rw [patternOf, wordsOf, wordsToNat_natToWords, hbits, Nat.mod_eq_of_lt (encW p.w v).isLt,
      BitVec.ofNat_toNat, BitVec.setWidth_eq]
  rw [valueOf, hpattern]
  exact toInt_ofInt_of_fitsBits (by omega) hv

/-! ### `ld` -/

section
variable (s : State) (r : OpReg) (ws : DataReg)

/-- `s` after `n` lines of a load of the words `ws`: the `n` lowest words of the register are
loaded. -/
def State.loading (n : Nat) : State :=
  { s.setOpReg (ws.take n ++ (s.opReg r).drop n) r with
    sched    := s.sched.drop n
    host     := s.host.goto (s.host.pc + n)
    busReply := if n = 0 then s.busReply else .wrote .okay }

theorem loading_zero : s.loading r ws 0 = s := by
  cases r <;> rfl

@[simp] theorem loading_params (n : Nat) : (s.loading r ws n).params = s.params := by
  simp [State.loading]
@[simp] theorem loading_rst (n : Nat) : (s.loading r ws n).rst = s.rst := by
  simp [State.loading]
@[simp] theorem loading_host (n : Nat) :
    (s.loading r ws n).host = s.host.goto (s.host.pc + n) := rfl
@[simp] theorem loading_sched (n : Nat) : (s.loading r ws n).sched = s.sched.drop n := rfl

theorem loading_opReg (n : Nat) (q : OpReg) :
    (s.loading r ws n).opReg q =
      if r = q then ws.take n ++ (s.opReg r).drop n else s.opReg q := by
  rw [← setOpReg_opReg]
  cases q <;> rfl
end

/-- The word after the loaded ones is loaded. -/
theorem set_take_append_drop {α : Type} {xs ys : List α} {n : Nat} (hx : n < xs.length)
    (hy : n < ys.length) :
    (xs.take n ++ ys.drop n).set n xs[n] = xs.take (n + 1) ++ ys.drop (n + 1) := by
  have hlen : (xs.take n).length = n := by simp [hx.le]
  rw [List.set_append_right _ _ hlen.le, hlen, Nat.sub_self, List.drop_eq_getElem_cons hy,
    List.set_cons_zero, List.take_succ_eq_append_getElem hx, List.append_assoc,
    List.singleton_append]

/-- A line of the load, from one state of the load to the next. -/
theorem loading_operandWriteTurn (s : State) (r : OpReg) {ws : DataReg} {n : Nat}
    (hw : n < ws.length) (hr : n < (s.opReg r).length) :
    ((s.loading r ws n).hostAt (s.host.pc + n + 1)).operandWriteTurn r n ws[n] =
      s.loading r ws (n + 1) := by
  have hset := set_take_append_drop hw hr
  have hsched : (s.sched.drop n).tail = s.sched.drop (n + 1) := List.tail_drop
  cases r <;>
    simp_all [State.operandWriteTurn, State.loading, writeTarget, State.setOpReg, State.opReg,
      State.popTurn, State.hostAt, HostAgent.goto, Nat.add_assoc]

theorem asmLd_line {p : Params} {r : OpReg} {v : Int} {n : Nat}
    (hn : n < (wordsOf p v).length) (rest : List HostStmt) :
    (asmLd p r v ++ rest)[n]? = some (.wr (.op r) n (wordsOf p v)[n]) := by
  rw [List.getElem?_append_left (by simpa [asmLd] using hn)]
  simp [asmLd, List.getElem?_zipIdx]

/-- Settles O27: each line writes its word, and the words of `v` hold it. -/
theorem loadWritesTheOperand : Obligations.LoadWritesTheOperand := by
  intro s r v rest hinv hrst hv hsched hprog hpc
  obtain ⟨-, hnw, -⟩ := nw_of_wf hinv.params
  let ws := wordsOf s.params v
  have hws : ws.length = s.params.nw := wordsOf_length s.params v
  have hreg : (s.opReg r).length = s.params.nw := inv_opReg_length hinv r
  have hline (k : Nat) (hk : k < s.params.nw) :
      step (s.loading r ws k) = .next (s.loading r ws (k + 1)) := by
    have hkw : k < ws.length := hws ▸ hk
    rw [← loading_operandWriteTurn s r hkw (hreg ▸ hk)]
    refine step_wr_operand (by simpa using hinv.params) (by simpa using hrst)
      (nextTurn_of_drop rfl (by simp [hsched, hk])) (by simpa using hk) ?_
    rw [loading_host, hpc, Nat.zero_add, ← asmLd_line hkw rest, ← hprog]
    rfl
  have hloaded : (s.loading r ws s.params.nw).opReg r = ws := by
    rw [loading_opReg, if_pos rfl, List.take_of_length_le hws.le, List.drop_of_length_le hreg.le,
      List.append_nil]
  refine ⟨s.loading r ws s.params.nw, ?_, ?_, ?_, ?_⟩
  · simpa [loading_zero] using reaches_of_steps hline
  · rw [State.operand, hloaded, loading_params]
    exact valueOf_wordsOf hinv.params hv
  · intro q hq
    rw [loading_opReg, if_neg hq.symm]
  · cases r <;> simp [State.loading, State.setOpReg, HostAgent.goto, hsched, hpc, hnw.ne']

/-! ### Variables of a host program (R90) -/

theorem lookupVar_assignVar (vars : List (Nat × Int)) (x z : Nat) (v : Int) :
    lookupVar (assignVar vars x v) z = if x = z then some v else lookupVar vars z := by
  induction vars with
  | nil => simp [assignVar, lookupVar]
  | cons yu vs ih =>
    obtain ⟨y, u⟩ := yu
    by_cases hyx : y = x
    · subst hyx
      by_cases hyz : y = z <;> simp [assignVar, lookupVar, hyz]
    · by_cases hyz : y = z
      · subst hyz
        simp [assignVar, lookupVar, hyx, Ne.symm hyx]
      · simp [assignVar, lookupVar, hyx, hyz, ih]

theorem lookupVars_map {α : Type} {vars : List (Nat × Int)} {js : List α} {x : α → Nat}
    {f : α → Int} (h : ∀ j ∈ js, lookupVar vars (x j) = some (f j)) :
    lookupVars vars (js.map x) = some (js.map f) := by
  induction js with
  | nil => rfl
  | cons j js ih =>
    rw [List.map_cons, lookupVars, h j List.mem_cons_self,
      ih fun i hi => h i (List.mem_cons_of_mem j hi)]
    rfl

/-! ### `get` -/

/-- The variables after `n` lines of a read of the words `ws` into the variables from `y` on. -/
def readVars (vars : List (Nat × Int)) (ws : DataReg) (y : Nat) : Nat → List (Nat × Int)
  | 0     => vars
  | n + 1 => assignVar (readVars vars ws y n) (y + n) (ws.getD n 0#32).toNat

/-- Each word that has been read stands in its variable. -/
theorem lookupVar_readVars (vars : List (Nat × Int)) (ws : DataReg) (y : Nat) {j n : Nat}
    (hj : j < n) : lookupVar (readVars vars ws y n) (y + j) = some ↑(ws.getD j 0#32).toNat := by
  induction n with
  | zero => cases hj
  | succ n ih =>
    rw [readVars, lookupVar_assignVar]
    obtain rfl | hjn := Nat.eq_or_lt_of_le (Nat.le_of_lt_succ hj)
    · rw [if_pos rfl]
    · rw [if_neg (by omega), ih hjn]

/-- The NW variables that `get` assigns hold the words of the register. -/
theorem lookupVars_readVars (vars : List (Nat × Int)) (ws : DataReg) (y : Nat) :
    lookupVars (readVars vars ws y ws.length) ((List.range ws.length).map (y + ·)) =
      some (ws.map fun w => ↑w.toNat) := by
  rw [lookupVars_map fun j hj => lookupVar_readVars vars ws y (List.mem_range.mp hj)]
  exact congrArg some (List.ext_getElem (by simp) (by simp +contextual))

section
variable (s : State) (r : ResReg) (y : Nat)

/-- `s` after `n` lines of a read of a result register into the variables from `y` on. -/
def State.getting : Nat → State
  | 0     => s
  | n + 1 => (State.getting n).resultReadTurn r n (y + n)

/-- The lines change the environment and the answer on the bus only. -/
theorem getting_frame (n : Nat) :
    s.getting r y n = { s with
      sched    := s.sched.drop n
      host     := { s.host with
        pc := s.host.pc + n, vars := readVars s.host.vars (s.resReg r) y n }
      busReply := (s.getting r y n).busReply } := by
  induction n with
  | zero => rfl
  | succ n ih =>
    rw [State.getting, ih]
    cases r <;> simp [State.resultReadTurn, readVars, State.resReg, Nat.add_assoc]
end

section
variable {p : Params} {r : ResReg} {x y : Nat}

theorem asmGet_line {n : Nat} (hn : n < p.nw) (rest : List HostStmt) :
    (asmGet p r x y ++ rest)[n]? = some (.rd (.res r) n (y + n)) := by
  simp [asmGet, List.getElem?_append, hn]

theorem asmGet_last (rest : List HostStmt) :
    (asmGet p r x y ++ rest)[p.nw]? = some (.sintOf x ((List.range p.nw).map (y + ·))) := by
  simp [asmGet]

/-- The last line of a `get`, whose variables hold the words of a register (R91). -/
theorem quietTurn_sintOf {h : HostAgent} {ts : List Nat} {ws : DataReg}
    (hline : h.prog[h.pc]? = some (.sintOf x ts))
    (hws : lookupVars h.vars ts = some (ws.map fun w => ↑w.toNat)) :
    quietTurn p h = some ((h.goto (h.pc + 1)).assign x (valueOf p ws)) := by
  have hround : (ws.map fun w => (w.toNat : Int)).map (BitVec.ofInt 32) = ws := by
    simp [Function.comp_def]
  simp only [quietTurn, quietLine, hline, hws, hround]
end

theorem inv_resReg_length {s : State} (h : Inv s) (r : ResReg) :
    (s.resReg r).length = s.params.nw := by
  obtain ⟨-, -, -, h0, h1, h2⟩ := h.lengths
  cases r <;> assumption

/-- Settles O28: each line but the last reads its word, and the last line puts the words together. -/
theorem getReadsTheResult : Obligations.GetReadsTheResult := by
  intro s r x y rest hinv hrst hsched hprog hpc
  have hreg : (s.resReg r).length = s.params.nw := inv_resReg_length hinv r
  have hturn (k : Nat) (hk : k ≤ s.params.nw) : (s.getting r y k).nextTurn = .host := by
    rw [getting_frame]
    exact nextTurn_of_drop rfl (by simp [hsched, Nat.lt_succ_of_le hk])
  have hreads (k : Nat) (hk : k < s.params.nw) :
      step (s.getting r y k) = .next (s.getting r y (k + 1)) := by
    refine step_rd_result ?_ ?_ (hturn k hk.le) ?_ ?_ <;> rw [getting_frame]
    · exact hinv.params
    · exact hrst
    · exact hk
    · simpa [hpc, hprog] using asmGet_line hk rest
  have hwords := lookupVars_readVars s.host.vars (s.resReg r) y
  rw [hreg] at hwords
  have hlast : quietTurn (s.getting r y s.params.nw).params (s.getting r y s.params.nw).host =
      some { s.host with
        pc   := s.params.nw + 1
        vars := assignVar (readVars s.host.vars (s.resReg r) y s.params.nw) x
          (valueOf s.params (s.resReg r)) } := by
    rw [getting_frame, hpc, Nat.zero_add]
    exact quietTurn_sintOf (by simpa [hprog] using asmGet_last rest) hwords
  refine ⟨_, (reaches_of_steps hreads).snoc (step_of_quiet (hturn _ le_rfl) hlast), ?_, ?_, rfl⟩
  · simp [lookupVar_assignVar]
  · rw [getting_frame]
    simp [State.popTurn, hsched]

end Sys2Proof.Machine
end

section
/-! The answers of the primitive unit (O7, O8, O9, O10, O11), and the requests that the sequencer
makes, with their divisors (O36). -/

namespace Sys2Proof.Machine

/-! ### The primitive unit's turn -/

/-- Settles O7: the engine's turn is the primitive unit's where a request waits for its answer. -/
theorem stepRunsTheOutstandingRequest : Obligations.StepRunsTheOutstandingRequest := by
  intro s r hrst hn hx ha hv
  rw [step_eq, hn]
  simp [takeTurn, engineTurn, State.popTurn, hrst, hx, ha, hv]

/-- Settles O8: the responses of the three requests. -/
theorem addSubMulAnswerExactly : Obligations.AddSubMulAnswerExactly := fun s x y =>
  ⟨exec_request ⟨.add, x, y⟩ s, exec_request ⟨.sub, x, y⟩ s, exec_request ⟨.mul, x, y⟩ s⟩

/-- Settles O9: the quotient by a positive divisor is the greatest of those below. -/
theorem divAnswersTheFloorQuotient : Obligations.DivAnswersTheFloorQuotient := by
  intro s x y hy
  refine ⟨primDiv x y, exec_request ⟨.div, x, y⟩ s, ?_, fun q hq => ?_⟩ <;>
    rw [primDiv_of_pos x hy]
  · exact Int.ediv_mul_le x hy.ne'
  · exact (Int.le_ediv_iff_mul_le hy).mpr hq

/-- Settles O10: the remainder by a positive divisor is what the quotient leaves. -/
theorem modAnswersTheRemainderInRange : Obligations.ModAnswersTheRemainderInRange := by
  intro s x y hy
  obtain ⟨hlow, hhigh⟩ := primMod_range x hy
  refine ⟨primMod x y, primDiv x y, exec_request ⟨.mod, x, y⟩ s, hlow, hhigh, ?_⟩
  rw [primMod_eq_sub x hy]
  ring

/-- Settles O11: the response of R100 is there whatever value it has. -/
theorem divAndModAnswerForEveryDivisor : Obligations.DivAndModAnswerForEveryDivisor :=
  fun s x y => ⟨⟨_, exec_request ⟨.div, x, y⟩ s⟩, ⟨_, exec_request ⟨.mod, x, y⟩ s⟩⟩

/-! ### The requests of the steps -/

/-- The request that a step of EGCD_CORE makes (R170). -/
inductive CoreRequest (w : Work) : CoreLabel → Request → Prop where
  | e2 : CoreRequest w .e2 ⟨.div, w.r0, w.r1⟩
  | e3 : CoreRequest w .e3 ⟨.mod, w.r0, w.r1⟩
  | e4 : CoreRequest w .e4 ⟨.mul, w.q, w.s1⟩
  | e5 : CoreRequest w .e5 ⟨.sub, w.s0, w.u⟩
  | e6 : CoreRequest w .e6 ⟨.mul, w.q, w.t1⟩
  | e7 : CoreRequest w .e7 ⟨.sub, w.t0, w.u⟩

/-- The request that a step makes (R151, R170, R172, R173, R191). -/
inductive StepRequest (w : Work) : StepLabel → Request → Prop where
  | s1 : StepRequest w (.isprime .s1) ⟨.mod, w.n, 3⟩
  | s2 : StepRequest w (.isprime .s2) ⟨.mul, w.c, w.c⟩
  | s3 : StepRequest w (.isprime .s3) ⟨.mod, w.n, w.c⟩
  | s4 : StepRequest w (.isprime .s4) ⟨.add, w.c, w.d⟩
  | g1 {k : CoreLabel} {r : Request} (h : CoreRequest w k r) : StepRequest w (.egcd (.g1 k)) r
  | i1 {k : CoreLabel} {r : Request} (h : CoreRequest w k r) : StepRequest w (.modinv (.i1 k)) r
  | i3 : StepRequest w (.modinv .i3) ⟨.mod, w.s0, w.m⟩
  | i4 : StepRequest w (.modinv .i4) ⟨.add, w.u, w.m⟩
  | i5 : StepRequest w (.modinv .i5) ⟨.mod, w.u, w.m⟩
  | p1 : StepRequest w (.modpow .p1) ⟨.mod, w.b, w.m⟩
  | p3 : StepRequest w (.modpow .p3) ⟨.mul, w.res, w.b⟩
  | p4 : StepRequest w (.modpow .p4) ⟨.mod, w.t, w.m⟩
  | p5 : StepRequest w (.modpow .p5) ⟨.mul, w.b, w.b⟩
  | p6 : StepRequest w (.modpow .p6) ⟨.mod, w.t, w.m⟩

section
variable {w w' : Work} {r : Request}

theorem coreRequest_of_call {k : CoreLabel} (h : coreStart k w = (w', .call r.op r.x r.y)) :
    CoreRequest w k r := by
  obtain ⟨op, x, y⟩ := r
  cases k
  case e0 => cases h
  case e1 => simp only [coreStart] at h; split at h <;> cases h
  all_goals cases h; constructor

/-- A step of the loop inside a command makes the request of the loop's own step. -/
theorem coreRequest_of_liftCore_call {inCore : CoreLabel → StepLabel} {after : StepLabel}
    {k : CoreLabel} (h : liftCore inCore after (coreStart k w) = ⟨w', .call r.op r.x r.y⟩) :
    CoreRequest w k r := by
  rcases hc : coreStart k w with ⟨wc, nc⟩
  rw [hc] at h
  cases nc <;> cases h
  exact coreRequest_of_call hc

theorem stepRequest_of_call {l : StepLabel} (h : startStep l w = ⟨w', .call r.op r.x r.y⟩) :
    StepRequest w l r := by
  cases l with
  | isprime l =>
    obtain ⟨op, x, y⟩ := r
    cases l
    case s0 => simp only [startStep, isprimeStart] at h; split_ifs at h <;> cases h
    all_goals cases h; constructor
  | egcd l =>
    cases l with
    | g0 => simp only [startStep, egcdStart] at h; split at h <;> cases h
    | g1 k => exact .g1 (coreRequest_of_liftCore_call h)
    | g2 => cases h
  | modinv l =>
    cases l
    case i0 => simp only [startStep, modinvStart] at h; split at h <;> cases h
    case i1 k => exact .i1 (coreRequest_of_liftCore_call h)
    case i2 => simp only [startStep, modinvStart] at h; split at h <;> cases h
    case i6 => cases h
    all_goals obtain ⟨op, x, y⟩ := r; cases h; constructor
  | modpow l =>
    obtain ⟨op, x, y⟩ := r
    cases l
    case p0 => simp only [startStep, modpowStart] at h; split_ifs at h <;> cases h
    case p2 => simp only [startStep, modpowStart] at h; split_ifs at h <;> cases h
    all_goals cases h; constructor

/-- The request on the port is that of the current step (R107). -/
theorem inv_stepRequest {s : State} (h : Inv s) {l : StepLabel} (hp : s.phase = .run l)
    (hx : s.xpend = some r) : StepRequest s.work l r :=
  stepRequest_of_call (h.request l r hp hx)

/-! ### The divisors -/

theorem CoreRequest.divisor_pos {k : CoreLabel} (hr : CoreRequest w k r) (h : CoreOk w k)
    (hop : r.op = .div ∨ r.op = .mod) : 0 < r.y := by
  cases hr with
  | e2 => exact h.1
  | e3 => exact h.1
  | _  => simp at hop

/-- What the invariant says of a step's registers makes its divisor positive (R106). -/
theorem StepRequest.divisor_pos {l : StepLabel} (hr : StepRequest w l r) (h : LabelOk w l)
    (hop : r.op = .div ∨ r.op = .mod) : 0 < r.y := by
  cases hr with
  | s1    => exact three_pos
  | s3    => obtain ⟨-, hc, -⟩ := h; exact (by decide : (0 : Int) < 5).trans_le hc
  | g1 hr => exact hr.divisor_pos h.2 hop
  | i1 hr => exact hr.divisor_pos h.2 hop
  | i3    => exact h.1
  | i5    => exact h.1
  | p1    => exact Int.one_pos.trans h.1
  | p4    => exact Int.one_pos.trans h.1
  | p6    => exact Int.one_pos.trans h.1
  | _     => simp at hop
end

/-- Settles O36: the request after the step is the current step's, whose divisor is positive. -/
theorem issuedDivisorsArePositive : Obligations.IssuedDivisorsArePositive := by
  intro s t r h hs hx hop
  have ht : Inv t := inv_step h hs
  obtain ⟨l, hp⟩ := inv_running_of_xpend ht hx
  exact (inv_stepRequest ht hp hx).divisor_pos (ht.label l hp) hop

end Sys2Proof.Machine
end

section
/-! The values on the primitive port lie in the range of R110 (O47): the sequencer's registers keep
bounds, from which every request and its result are in range. -/

namespace Sys2Proof.Machine

/-! ### The range -/

/-- The range of R110, with `M` for 2^(W-1). -/
def PortRange (M v : Int) : Prop := -M - 1 ≤ v ∧ v ≤ M ^ 2

/-- Both operands of a request and its exact result are in range. -/
def Request.InRange (M : Int) (r : Request) : Prop :=
  PortRange M r.x ∧ PortRange M r.y ∧ PortRange M r.result

section
variable {M x y : Int} (hM : 5 ≤ M)
include hM

theorem portRange_of_abs_le (hx : |x| ≤ M + 1) : PortRange M x := by
  obtain ⟨hlow, hhigh⟩ := abs_le.mp hx
  exact ⟨by omega, by nlinarith⟩

theorem portRange_of_nonneg (hx : 0 ≤ x) (hxM : x ≤ 2 * M) : PortRange M x :=
  ⟨by omega, by nlinarith⟩

theorem inRange_add (hx : 0 ≤ x) (hxM : x ≤ M) (hy : 0 ≤ y) (hyM : y ≤ M) :
    Request.InRange M ⟨.add, x, y⟩ := by
  have hx' : PortRange M x := portRange_of_nonneg hM hx (by omega)
  have hy' : PortRange M y := portRange_of_nonneg hM hy (by omega)
  exact ⟨hx', hy', portRange_of_nonneg (x := x + y) hM (by omega) (by omega)⟩

theorem inRange_sub (hx : |x| ≤ M + 1) (hy : |y| ≤ M + 1) (hxy : |x - y| ≤ M + 1) :
    Request.InRange M ⟨.sub, x, y⟩ :=
  ⟨portRange_of_abs_le hM hx, portRange_of_abs_le hM hy, portRange_of_abs_le hM hxy⟩

theorem inRange_mul_of_abs (hx : |x| ≤ M + 1) (hy : |y| ≤ M + 1) (hxy : |x * y| ≤ M + 1) :
    Request.InRange M ⟨.mul, x, y⟩ :=
  ⟨portRange_of_abs_le hM hx, portRange_of_abs_le hM hy, portRange_of_abs_le hM hxy⟩

theorem inRange_mul_of_nonneg (hx : 0 ≤ x) (hxM : x ≤ M) (hy : 0 ≤ y) (hyM : y ≤ M) :
    Request.InRange M ⟨.mul, x, y⟩ := by
  have hx' : PortRange M x := portRange_of_nonneg hM hx (by omega)
  have hy' : PortRange M y := portRange_of_nonneg hM hy (by omega)
  have hxy : 0 ≤ x * y := mul_nonneg hx hy
  exact ⟨hx', hy', (by omega : -M - 1 ≤ x * y), (by nlinarith : x * y ≤ M ^ 2)⟩

theorem inRange_div (hx : |x| ≤ M + 1) (hy : 0 < y) (hyM : y ≤ M) :
    Request.InRange M ⟨.div, x, y⟩ := by
  have hy' : PortRange M y := portRange_of_nonneg hM hy.le (by omega)
  have hdiv : PortRange M (primDiv x y) := by
    rw [primDiv_of_pos x hy]
    exact portRange_of_abs_le hM ((Int.abs_ediv_le_abs x y).trans hx)
  exact ⟨portRange_of_abs_le hM hx, hy', hdiv⟩

theorem inRange_mod (hx : PortRange M x) (hy : 0 < y) (hyM : y ≤ M) :
    Request.InRange M ⟨.mod, x, y⟩ := by
  obtain ⟨hlow, hhigh⟩ := primMod_range x hy
  have hy' : PortRange M y := portRange_of_nonneg hM hy.le (by omega)
  have hmod : PortRange M (primMod x y) := portRange_of_nonneg hM hlow (by omega)
  exact ⟨hx, hy', hmod⟩
end

/-! ### The cofactors of the extended Euclidean algorithm -/

/-- Two successive remainders of a pass after the first, and their cofactors `s0`, `s1`: the
cofactors have opposite signs, so that the determinant `m` of R170's recurrence bounds them. -/
structure Cofactors (m r0 r1 s0 s1 : Int) : Prop where
  lt       : r1 < r0
  le       : r0 ≤ m
  abs_s0   : |s0| ≤ m
  opposite : s0 * s1 ≤ 0
  det      : |s1| * r0 + |s0| * r1 = m

theorem Cofactors.abs_s1 {m r0 r1 s0 s1 : Int} (h : Cofactors m r0 r1 s0 s1) (hr1 : 0 ≤ r1) :
    |s1| ≤ m := by
  have hr0 := h.lt
  have hdet := h.det
  nlinarith [abs_nonneg s0, abs_nonneg s1]

/-- Cofactors of opposite signs: nothing cancels in the recurrence. -/
theorem abs_sub_mul_of_opposite {s0 s1 q : Int} (h : s0 * s1 ≤ 0) (hq : 0 ≤ q) :
    |s0 - q * s1| = |s0| + q * |s1| := by
  have hsame : 0 ≤ s0 * -(q * s1) := by nlinarith
  rw [sub_eq_add_neg, abs_add_eq_add_abs_iff _ _ |>.mpr (mul_nonneg_iff.mp hsame), abs_neg, abs_mul,
    abs_of_nonneg hq]

theorem Cofactors.quotient_nonneg {m r0 r1 s0 s1 q rem : Int} (h : Cofactors m r0 r1 s0 s1)
    (hr1 : 0 < r1) (hrem : rem < r1) (heq : rem = r0 - q * r1) : 0 ≤ q := by
  nlinarith [h.lt]

/-- A pass of the loop hands on such remainders and cofactors. -/
theorem Cofactors.next {m r0 r1 s0 s1 q rem : Int} (h : Cofactors m r0 r1 s0 s1) (hr1 : 0 < r1)
    (hrem : rem < r1) (heq : rem = r0 - q * r1) : Cofactors m r1 rem s1 (s0 - q * s1) :=
  have hq : 0 ≤ q := h.quotient_nonneg hr1 hrem heq
  { lt       := hrem
    le       := h.lt.le.trans h.le
    abs_s0   := h.abs_s1 hr1.le
    opposite := by nlinarith [h.opposite, mul_self_nonneg s1]
    det      := by rw [abs_sub_mul_of_opposite h.opposite hq, heq, ← h.det]; ring }

/-- The product that the recurrence subtracts is no larger than the cofactor it gives. -/
theorem Cofactors.abs_mul_s1 {m r0 r1 s0 s1 q rem : Int} (h : Cofactors m r0 r1 s0 s1)
    (hr1 : 0 < r1) (hrem : 0 ≤ rem) (hlt : rem < r1) (heq : rem = r0 - q * r1) :
    |q * s1| ≤ m := by
  have hq : 0 ≤ q := h.quotient_nonneg hr1 hlt heq
  calc |q * s1| = q * |s1| := by rw [abs_mul, abs_of_nonneg hq]
    _ ≤ |s0| + q * |s1| := le_add_of_nonneg_left (abs_nonneg s0)
    _ = |s0 - q * s1| := (abs_sub_mul_of_opposite h.opposite hq).symm
    _ ≤ m := (h.next hr1 hlt heq).abs_s1 hrem

/-- The other cofactor, by its Bezout equation (R170). -/
theorem abs_cofactor_le {a m r s t : Int} (hm : 0 < m) (hr : 0 ≤ r) (hrm : r ≤ m) (hs : |s| ≤ m)
    (h : r = a * s + m * t) : |t| ≤ |a| + 1 := by
  have hmul : |a * s| ≤ |a| * m := by
    rw [abs_mul]; exact mul_le_mul_of_nonneg_left hs (abs_nonneg a)
  refine le_of_mul_le_mul_left ?_ hm
  calc m * |t| = |r - a * s| := by rw [h, add_sub_cancel_left, abs_mul, abs_of_pos hm]
    _ ≤ |r| + |a * s| := abs_sub r (a * s)
    _ ≤ m + |a| * m := by rw [abs_of_nonneg hr]; exact add_le_add hrm hmul
    _ = m * (|a| + 1) := by ring

/-- Both second cofactors of a pass, by their Bezout equations. -/
theorem Cofactors.abs_t {r0 r1 s0 s1 t0 t1 a m : Int} (h : Cofactors m r0 r1 s0 s1)
    (hr1 : 0 ≤ r1) (h0 : r0 = a * s0 + m * t0) (h1 : r1 = a * s1 + m * t1) :
    |t0| ≤ |a| + 1 ∧ |t1| ≤ |a| + 1 := by
  have hlt := h.lt
  have hle := h.le
  exact ⟨abs_cofactor_le (by omega) (by omega) hle h.abs_s0 h0,
    abs_cofactor_le (by omega) hr1 (by omega) (h.abs_s1 hr1) h1⟩

/-! ### A pass of EGCD_CORE -/

/-- The registers with which a pass of the loop begins: E0's, or those that a pass leaves. -/
def PassStart (w : Work) : Prop :=
  (w.r0 = w.a ∧ w.r1 = w.m ∧ w.s0 = 1 ∧ w.s1 = 0 ∧ w.t0 = 0 ∧ w.t1 = 1) ∨
  Cofactors w.m w.r0 w.r1 w.s0 w.s1

/-- What the labels of EGCD_CORE know besides `CoreOk`, with `M` for 2^(W-1). -/
def CoreRange (M : Int) (w : Work) : CoreLabel → Prop
  | .e0 => True
  | .e1 => PassStart w
  | .e2 => PassStart w
  | .e3 => PassStart w
  | .e4 => PassStart w
  | .e5 => PassStart w
  | .e6 => |w.t0| ≤ M + 1 ∧ |w.q| ≤ M + 1 ∧ |w.q * w.t1| ≤ M + 1 ∧
      Cofactors w.m w.r1 w.rem w.s0 w.s1
  | .e7 => |w.t0| ≤ M + 1 ∧ |w.u| ≤ M + 1 ∧ Cofactors w.m w.r1 w.rem w.s0 w.s1

/-- The bounds of the loop inside a command. -/
def LoopRange (M : Int) (w : Work) (l : CoreLabel) : Prop :=
  |w.a| ≤ M ∧ w.m < M ∧ CoreRange M w l

section
variable {M : Int} {w : Work}

theorem PassStart.r1_le (h : PassStart w) : w.r1 ≤ w.m := by
  obtain ⟨-, hr1, -⟩ | h := h
  · exact hr1.le
  · exact h.lt.le.trans h.le

theorem PassStart.abs_r0 (h : PassStart w) (ha : |w.a| ≤ M) (hm : w.m < M) (hr1 : 0 < w.r1) :
    |w.r0| ≤ M + 1 := by
  obtain ⟨hr0, -⟩ | h := h
  · rw [hr0]; omega
  · have hlt := h.lt
    have hle := h.le
    rw [abs_of_pos (by omega)]
    omega

theorem PassStart.abs_s0 (h : PassStart w) (hm : 0 < w.m) : |w.s0| ≤ w.m := by
  obtain ⟨-, -, hs0, -⟩ | h := h
  · rw [hs0, abs_one]; omega
  · exact h.abs_s0

theorem PassStart.abs_s1 (h : PassStart w) (hr1 : 0 < w.r1) : |w.s1| ≤ w.m := by
  have hle := h.r1_le
  obtain ⟨-, -, -, hs1, -⟩ | h := h
  · rw [hs1, abs_zero]; omega
  · exact h.abs_s1 hr1.le

theorem coreOk_e5_iff : CoreOk w .e5 ↔ CoreOk w .e4 ∧ w.u = w.q * w.s1 := by
  simp only [CoreOk, and_assoc]

/-- Once the quotient and the remainder are there, what the pass will leave is known. -/
theorem PassStart.next (h : PassStart w) (hok : CoreOk w .e4) :
    Cofactors w.m w.r1 w.rem w.s1 (w.s0 - w.q * w.s1) := by
  obtain ⟨hr1, -, -, hrem, hlt, heq⟩ := hok
  obtain ⟨-, hm, hs0, hs1, -⟩ | h := h
  · rw [hs0, hs1]
    exact ⟨hlt, hm.le, by simp; omega, by simp, by simp [hm]⟩
  · exact h.next hr1 hlt heq

/-- The quotient and its products with the cofactors (R110). -/
theorem PassStart.abs_products (h : PassStart w) (hok : CoreOk w .e4) (ha : |w.a| ≤ M)
    (hm : w.m < M) :
    |w.q| ≤ M + 1 ∧ |w.q * w.s1| ≤ M + 1 ∧ |w.q * w.t1| ≤ M + 1 := by
  obtain ⟨hr1, -, hr1s, hrem, hlt, heq⟩ := hok
  obtain ⟨hr0, hr1m, -, hs1, -, ht1⟩ | h := h
  · have hq : |-w.q| ≤ |w.a| + 1 := by
      refine abs_cofactor_le (m := w.m) (r := w.rem) (s := 1) (by omega) hrem (by omega)
        (by simp; omega) ?_
      rw [heq, hr0, hr1m]; ring
    rw [abs_neg] at hq
    rw [hs1, ht1, mul_zero, mul_one, abs_zero]
    omega
  · have hr0 := h.lt
    have hle := h.le
    have hq : 0 ≤ w.q := h.quotient_nonneg hr1 hlt heq
    have hqs : |w.q * w.s1| ≤ w.m := h.abs_mul_s1 hr1 hrem hlt heq
    have hqt : |w.q * w.t1| ≤ |w.a| + 1 :=
      abs_cofactor_le (r := w.q * w.r1) (s := w.q * w.s1) (by omega) (by positivity) (by omega)
        hqs (by linear_combination w.q * hr1s)
    exact ⟨by rw [abs_of_nonneg hq]; nlinarith, by omega, by omega⟩

theorem PassStart.abs_t0 (h : PassStart w) (hok : CoreOk w .e4) (ha : |w.a| ≤ M) :
    |w.t0| ≤ M + 1 := by
  obtain ⟨hr1, hr0s, hr1s, -⟩ := hok
  obtain ⟨-, -, -, -, ht0, -⟩ | h := h
  · rw [ht0, abs_zero]
    linarith [abs_nonneg w.a]
  · obtain ⟨ht0, -⟩ := h.abs_t hr1.le hr0s hr1s
    omega

/-- Every request of the loop is in range. -/
theorem CoreRequest.inRange {k : CoreLabel} {r : Request} (hr : CoreRequest w k r) (hM : 5 ≤ M)
    (hok : CoreOk w k) (hb : LoopRange M w k) : r.InRange M := by
  obtain ⟨ha, hm, hb⟩ := hb
  cases hr with
  | e2 =>
    obtain ⟨hr1, -⟩ := hok
    exact inRange_div hM (hb.abs_r0 ha hm hr1) hr1 (hb.r1_le.trans hm.le)
  | e3 =>
    obtain ⟨hr1, -⟩ := hok
    exact inRange_mod hM (portRange_of_abs_le hM (hb.abs_r0 ha hm hr1)) hr1 (hb.r1_le.trans hm.le)
  | e4 =>
    obtain ⟨hq, hqs, -⟩ := hb.abs_products hok ha hm
    obtain ⟨hr1, -⟩ := hok
    exact inRange_mul_of_abs hM hq ((hb.abs_s1 hr1).trans (by omega)) hqs
  | e5 =>
    obtain ⟨hok4, hu⟩ := coreOk_e5_iff.mp hok
    obtain ⟨-, hqs, -⟩ := hb.abs_products hok4 ha hm
    have hnext := hb.next hok4
    obtain ⟨hr1, -, -, hrem, -⟩ := hok4
    have hs0 := hb.abs_s0 (hr1.trans_le hb.r1_le)
    have hs := hnext.abs_s1 hrem
    rw [← hu] at hqs hs
    exact inRange_sub hM (hs0.trans (by omega)) hqs (hs.trans (by omega))
  | e6 =>
    obtain ⟨-, hq, hqt, hc⟩ := hb
    obtain ⟨-, hr1s, hrem, -, hrems⟩ := hok
    obtain ⟨ht1, -⟩ := hc.abs_t hrem hr1s hrems
    exact inRange_mul_of_abs hM hq (ht1.trans (by omega)) hqt
  | e7 =>
    obtain ⟨ht0, hu, hc⟩ := hb
    obtain ⟨-, hr1s, hrem, -, hrems⟩ := hok
    obtain ⟨-, ht⟩ := hc.abs_t hrem hr1s hrems
    exact inRange_sub hM ht0 hu (ht.trans (by omega))

theorem coreStart_goto_range {w' : Work} {l l' : CoreLabel} (hb : LoopRange M w l)
    (hs : coreStart l w = (w', .goto l')) : LoopRange M w' l' := by
  obtain ⟨ha, hm, hb⟩ := hb
  cases l
  case e0 => cases hs; exact ⟨ha, hm, .inl ⟨rfl, rfl, rfl, rfl, rfl, rfl⟩⟩
  case e1 => simp only [coreStart] at hs; split at hs <;> cases hs; exact ⟨ha, hm, hb⟩
  all_goals cases hs

theorem coreResume_goto_range {w' : Work} {k k' : CoreLabel} {r : Request}
    (hr : CoreRequest w k r) (hok : CoreOk w k) (hb : LoopRange M w k)
    (hs : coreResume k r.result w = (w', .goto k')) : LoopRange M w' k' := by
  obtain ⟨ha, hm, hb⟩ := hb
  cases hr with
  | e5 =>
    cases hs
    obtain ⟨hok4, hu⟩ := coreOk_e5_iff.mp hok
    obtain ⟨hq, -, hqt⟩ := hb.abs_products hok4 ha hm
    have hnext : Cofactors w.m w.r1 w.rem w.s1 (w.s0 - w.u) := hu ▸ hb.next hok4
    exact ⟨ha, hm, hb.abs_t0 hok4 ha, hq, hqt, hnext⟩
  | e6 =>
    cases hs
    obtain ⟨ht0, -, hqt, hc⟩ := hb
    exact ⟨ha, hm, ht0, hqt, hc⟩
  | e7 =>
    cases hs
    obtain ⟨-, -, hc⟩ := hb
    exact ⟨ha, hm, .inr hc⟩
  | _ => cases hs; exact ⟨ha, hm, hb⟩
end

/-! ### All commands -/

/-- What a step label knows besides `LabelOk`, with `M` for 2^(W-1): how large the registers are. -/
def LabelRange (M : Int) (w : Work) : StepLabel → Prop
  | .isprime .s2 => w.n < M ∧ w.c ≤ M
  | .isprime _ => w.n < M
  | .egcd .g0 => |w.a| ≤ M ∧ w.m < M
  | .egcd (.g1 l) => LoopRange M w l
  | .egcd .g2 => True
  | .modinv .i0 => |w.a| ≤ M ∧ w.m < M
  | .modinv (.i1 l) => LoopRange M w l
  | .modinv .i2 => |w.s0| ≤ w.m ∧ w.m < M
  | .modinv .i3 => |w.s0| ≤ w.m ∧ w.m < M
  | .modinv _ => w.m < M
  | .modpow .p0 => |w.b| ≤ M ∧ w.m < M
  | .modpow .p1 => |w.b| ≤ M ∧ w.m < M
  | .modpow .p4 => w.m < M ∧ PortRange M w.t
  | .modpow .p6 => w.m < M ∧ PortRange M w.t
  | .modpow _ => w.m < M

/-- The next candidate of ISPRIME is still in range, far below the square of the last one. -/
theorem candidate_add_le {c d n M : Int} (hc : 5 ≤ c) (hd : d = 2 ∨ d = 4) (hcn : c * c ≤ n)
    (hn : n < M) : c + d ≤ M := by
  have hmul : 5 * c ≤ c * c := mul_le_mul_of_nonneg_right hc (by omega)
  omega

section
variable {M : Int} {w w' : Work} {l l' : StepLabel} {r : Request}

/-- Every request of the sequencer is in range. -/
theorem StepRequest.inRange (hr : StepRequest w l r) (hM : 5 ≤ M) (hok : LabelOk w l)
    (hb : LabelRange M w l) : r.InRange M := by
  cases hr with
  | s1 =>
    have hn : 3 < w.n ∧ w.n < M := ⟨hok, hb⟩
    exact inRange_mod hM (portRange_of_nonneg hM (by omega) (by omega)) three_pos (by omega)
  | s2 =>
    obtain ⟨-, hc, -⟩ := hok
    obtain ⟨-, hcM⟩ := hb
    exact inRange_mul_of_nonneg hM (by omega) hcM (by omega) hcM
  | s3 =>
    obtain ⟨hn, hc, hd, hcn⟩ := hok
    have hnM : w.n < M := hb
    have hcd := candidate_add_le hc hd hcn hnM
    exact inRange_mod hM (portRange_of_nonneg hM (by omega) (by omega)) (by omega) (by omega)
  | s4 =>
    obtain ⟨-, hc, hd, hcn⟩ := hok
    have hcd := candidate_add_le hc hd hcn hb
    exact inRange_add hM (by omega) (by omega) (by omega) (by omega)
  | g1 hr => exact hr.inRange hM hok.2 hb
  | i1 hr => exact hr.inRange hM hok.2 hb
  | i3 =>
    obtain ⟨hm, -⟩ := hok
    obtain ⟨hs0, hmM⟩ := hb
    exact inRange_mod hM (portRange_of_abs_le hM (hs0.trans (by omega))) hm hmM.le
  | i4 =>
    obtain ⟨hm, hu, hum, -⟩ := hok
    exact inRange_add hM hu (hum.trans hb).le hm.le hb.le
  | i5 =>
    obtain ⟨hm, hu, hum, -⟩ := hok
    have hmM : w.m < M := hb
    exact inRange_mod hM (portRange_of_nonneg hM (by omega) (by omega)) hm hmM.le
  | p1 =>
    obtain ⟨hbM, hmM⟩ := hb
    obtain ⟨hm, -⟩ := hok
    exact inRange_mod hM (portRange_of_abs_le hM (hbM.trans (by omega))) (by omega) hmM.le
  | p3 =>
    obtain ⟨-, -, hb0, hbm, hres0, hresm⟩ := hok
    exact inRange_mul_of_nonneg hM hres0 (hresm.trans hb).le hb0 (hbm.trans hb).le
  | p5 =>
    obtain ⟨-, -, hb0, hbm, -⟩ := hok
    exact inRange_mul_of_nonneg hM hb0 (hbm.trans hb).le hb0 (hbm.trans hb).le
  | p4 | p6 =>
    obtain ⟨hmM, ht⟩ := hb
    obtain ⟨hm, -⟩ := hok
    exact inRange_mod hM ht (by omega) hmM.le

/-! ### The bounds go from step to step -/

/-- Where the loop inside a command goes without a CALL. -/
theorem liftCore_goto {inCore : CoreLabel → StepLabel} {after : StepLabel} {p : Work × CoreNext}
    (h : liftCore inCore after p = ⟨w', .goto l'⟩) :
    (∃ k, p = (w', .goto k) ∧ l' = inCore k) ∨ (p = (w', .ret) ∧ l' = after) := by
  obtain ⟨wc, nc⟩ := p
  cases nc <;> cases h
  · exact .inl ⟨_, rfl, rfl⟩
  · exact .inr ⟨rfl, rfl⟩

/-- The loop returns from E1 only (R170). -/
theorem coreStart_ret {k : CoreLabel} (h : coreStart k w = (w', .ret)) :
    k = .e1 ∧ w' = w := by
  cases k
  case e1 =>
    simp only [coreStart] at h
    split at h <;> cases h
    exact ⟨rfl, rfl⟩
  all_goals cases h

theorem coreResume_ne_ret (k : CoreLabel) (v : Int) (w w' : Work) :
    coreResume k v w ≠ (w', .ret) := by
  cases k <;> nofun

theorem startStep_goto_range (hok : LabelOk w l) (hb : LabelRange M w l)
    (hs : startStep l w = ⟨w', .goto l'⟩) : LabelRange M w' l' := by
  cases l with
  | isprime l =>
    cases l
    case s0 => simp only [startStep, isprimeStart] at hs; split_ifs at hs <;> cases hs; exact hb
    all_goals cases hs
  | egcd l =>
    cases l with
    | g0 =>
      simp only [startStep, egcdStart] at hs
      split at hs <;> cases hs
      exact ⟨hb.1, hb.2, trivial⟩
    | g1 l =>
      obtain ⟨k, hk, rfl⟩ | ⟨-, rfl⟩ := liftCore_goto hs
      · exact coreStart_goto_range hb hk
      · trivial
    | g2 => cases hs
  | modinv l =>
    cases l
    case i0 =>
      simp only [startStep, modinvStart] at hs
      split at hs <;> cases hs
      exact ⟨hb.1, hb.2, trivial⟩
    case i1 l =>
      obtain ⟨k, hk, rfl⟩ | ⟨hk, rfl⟩ := liftCore_goto hs
      · exact coreStart_goto_range hb hk
      · obtain ⟨rfl, rfl⟩ := coreStart_ret hk
        obtain ⟨-, hm, hpass⟩ := hb
        exact ⟨hpass.abs_s0 hok.1, hm⟩
    case i2 =>
      simp only [startStep, modinvStart] at hs
      split at hs <;> cases hs
      exact hb
    all_goals cases hs
  | modpow l =>
    cases l
    case p0 => simp only [startStep, modpowStart] at hs; split_ifs at hs <;> cases hs; exact hb
    case p2 => simp only [startStep, modpowStart] at hs; split_ifs at hs <;> cases hs <;> exact hb
    all_goals cases hs

theorem resumeStep_goto_range (hr : StepRequest w l r) (hM : 5 ≤ M) (hok : LabelOk w l)
    (hb : LabelRange M w l) (hs : resumeStep l r.result w = ⟨w', .goto l'⟩) :
    LabelRange M w' l' := by
  obtain ⟨-, -, hresult⟩ := hr.inRange hM hok hb
  cases hr with
  | s1 =>
    simp only [resumeStep, isprimeResume] at hs
    split at hs <;> cases hs
    exact ⟨hb, hM⟩
  | s2 =>
    simp only [resumeStep, isprimeResume] at hs
    split at hs <;> cases hs
    exact hb.1
  | s3 =>
    simp only [resumeStep, isprimeResume] at hs
    split at hs <;> cases hs
    exact hb
  | s4 =>
    cases hs
    obtain ⟨-, hc, hd, hcn⟩ := hok
    exact ⟨hb, candidate_add_le hc hd hcn hb⟩
  | g1 hr | i1 hr =>
    obtain ⟨k, hk, rfl⟩ | ⟨hk, -⟩ := liftCore_goto hs
    · exact coreResume_goto_range hr hok.2 hb hk
    · exact absurd hk (coreResume_ne_ret _ _ _ _)
  | i3 => cases hs; exact hb.2
  | i4 => cases hs; exact hb
  | i5 => cases hs; exact hb
  | p1 => cases hs; exact hb.2
  | p3 => cases hs; exact ⟨hb, hresult⟩
  | p4 => cases hs; exact hb.1
  | p5 => cases hs; exact ⟨hb, hresult⟩
  | p6 => cases hs; exact hb.1
end

/-! ### The bounds hold in every state of a run -/

/-- The running command's registers are bounded, with 2^(W-1) for `M`. -/
def State.RegistersBounded (s : State) : Prop :=
  ∀ l, s.phase = .run l → LabelRange (2 ^ (s.params.w - 1)) s.work l

theorem five_le_pow {p : Params} (hp : p.Wf) : (5 : Int) ≤ 2 ^ (p.w - 1) := by
  obtain ⟨-, hw, -⟩ := hp
  calc (5 : Int) ≤ 2 ^ 3 := by decide
    _ ≤ 2 ^ (p.w - 1) := pow_le_pow_right₀ (by decide) (by omega)

/-- An operand is a W-bit value (R84). -/
theorem operand_range (s : State) (o : OpReg) :
    |s.operand o| ≤ 2 ^ (s.params.w - 1) ∧ s.operand o < 2 ^ (s.params.w - 1) := by
  have hlow := BitVec.le_toInt (patternOf s.params (s.opReg o))
  have hhigh := BitVec.toInt_lt (x := patternOf s.params (s.opReg o))
  exact ⟨abs_le.mpr ⟨hlow, hhigh.le⟩, hhigh⟩

/-- The snapshot of an accepted command is bounded (R123). -/
theorem registersBounded_accept (s : State) (c : Command) : (s.accept c).RegistersBounded := by
  rintro _ ⟨⟩
  have hop := operand_range s
  cases c
  case isprime => exact (hop .opa).2
  case modpow => exact ⟨(hop .opa).1, (hop .opc).2⟩
  all_goals exact ⟨(hop .opa).1, (hop .opb).2⟩

theorem State.RegistersBounded.of_eq {s t : State} (h : s.RegistersBounded)
    (hw : t.params = s.params) (hp : t.phase = s.phase) (hk : t.work = s.work) :
    t.RegistersBounded := by
  rw [State.RegistersBounded, hw, hp, hk]; exact h

theorem BlockWrite.registersBounded {s t : State} (hw : BlockWrite s t)
    (h : s.RegistersBounded) : t.RegistersBounded := by
  cases hw with
  | nothing     => exact h
  | command c _ =>
    cases hp : s.phase with
    | idle  => rw [issue_of_idle c hp]; exact registersBounded_accept s c
    | run l => rw [issue_of_running c (by simp [hp, Phase.running])]; exact h
  | illegal v _ => exact h.of_eq (by simp) (by simp) (by simp)
  | word v g _  => exact h.of_eq (by simp) (by simp) (by simp)

theorem HostMove.registersBounded {s t : State} (hm : HostMove s t) (h : s.RegistersBounded) :
    t.RegistersBounded := by
  obtain ⟨u, hu, r, a, ts, rfl⟩ := hm
  exact hu.registersBounded h

/-- A move keeps the bounds if what it goes to has them, and what it issues leaves the registers. -/
theorem registersBounded_applyMove {s : State} {mv : Move} (h : s.RegistersBounded)
    (hgoto : ∀ l, mv = ⟨mv.work, .goto l⟩ → LabelRange (2 ^ (s.params.w - 1)) mv.work l)
    (hcall : ∀ op x y, mv = ⟨mv.work, .call op x y⟩ → mv.work = s.work) :
    (s.applyMove mv).RegistersBounded := by
  obtain ⟨w, nx⟩ := mv
  cases nx with
  | goto l => rintro _ ⟨⟩; exact hgoto l rfl
  | call op x y => exact h.of_eq rfl rfl (hcall op x y rfl)
  | commit v0 v1 v2 noinv => intro l hl; simp [State.applyMove] at hl
  | raise e => nofun

theorem EngineMove.registersBounded {s t : State} (hm : EngineMove s t) (hi : Inv s)
    (h : s.RegistersBounded) : t.RegistersBounded := by
  have hM := five_le_pow hi.params
  cases hm with
  | @start l hp _ _ =>
    exact registersBounded_applyMove h
      (fun _ hg => startStep_goto_range (hi.label l hp) (h l hp) hg)
      fun _ _ _ hc => startStep_call_work hc
  | @resume l hp v hv =>
    obtain ⟨-, r, hr, rfl⟩ := hi.response v hv
    exact registersBounded_applyMove (s := s.takeResponse) h
      (fun _ hg =>
        resumeStep_goto_range (inv_stepRequest hi hp hr) hM (hi.label l hp) (h l hp) hg)
      fun op x y hc => absurd hc (resumeStep_ne_call _ _ _ _ op x y)
  | _ => exact h

theorem registersBounded_step {s t : State} (hi : Inv s) (h : s.RegistersBounded)
    (hs : step s = .next t) : t.RegistersBounded := by
  obtain ⟨-, hm⟩ | ⟨-, hm⟩ | ⟨-, rfl⟩ | ⟨-, rfl⟩ | ⟨-, rfl⟩ := step_cases hs
  · exact hm.registersBounded (inv_popTurn hi) h
  · exact hm.registersBounded h
  · nofun
  · exact h
  · exact h

/-- No step changes the parameters (R6). -/
theorem step_params {s t : State} (hs : step s = .next t) : t.params = s.params := by
  obtain ⟨-, hm⟩ | ⟨-, hm⟩ | ⟨-, rfl⟩ | ⟨-, rfl⟩ | ⟨-, rfl⟩ := step_cases hs
  · rw [hm.frame.1]; rfl
  · exact hm.frame.1
  all_goals rfl

/-- What every step keeps holds in every state of a run. -/
theorem Reaches.invariant {P : State → Prop} (hP : ∀ {s t}, P s → step s = .next t → P t) {k : Nat}
    {s x : State} (h : Reaches k s x) (hs : P s) : P x := by
  induction k generalizing s with
  | zero => obtain rfl : s = x := h; exact hs
  | succ k ih =>
    obtain ⟨u, hu, hx⟩ := h
    exact ih hx (hP hs hu)

/-- Settles O47: the request on the port is the current step's, whose registers are bounded. -/
theorem portValuesStayInRange : Obligations.PortValuesStayInRange := by
  intro s x k r hinv hidle hreach hx v hv
  have hstart : s.RegistersBounded := fun l hl => by simp [hidle] at hl
  obtain ⟨hparams, hinv', hbound⟩ : x.params = s.params ∧ Inv x ∧ x.RegistersBounded :=
    hreach.invariant (P := fun t => t.params = s.params ∧ Inv t ∧ t.RegistersBounded)
      (fun ⟨hp, hi, hb⟩ hs =>
        ⟨(step_params hs).trans hp, inv_step hi hs, registersBounded_step hi hb hs⟩)
      ⟨rfl, hinv, hstart⟩
  obtain ⟨l, hl⟩ := inv_running_of_xpend hinv' hx
  obtain ⟨hrx, hry, hresult⟩ := (inv_stepRequest hinv' hl hx).inRange
    (five_le_pow hinv'.params) (hinv'.label l hl) (hbound l hl)
  have hsquare : ((2 : Int) ^ (s.params.w - 1)) ^ 2 = 2 ^ (2 * s.params.w - 2) := by
    rw [← pow_mul]; congr 1; omega
  rw [← hsquare, ← hparams]
  obtain rfl | rfl | rfl := hv
  · exact hrx
  · exact hry
  · exact hresult

end Sys2Proof.Machine
end

section
/-! Every command ends: a bound on the engine's turns that are left, which each of them lowers. -/

namespace Sys2Proof.Machine

/-! ### The steps that are left, at most -/

/-- The passes of EGCD_CORE that are left, at most: the remainder falls in every pass (R170). -/
def corePassesLeft (w : Work) : CoreLabel → Nat
  | .e0 => w.m.toNat
  | _   => w.r1.toNat

/-- The passes of the command's loop that are left, at most: ISPRIME raises the candidate up to the
operand, EGCD_CORE lowers the remainder, MODPOW halves the exponent. -/
def passesLeft (w : Work) : StepLabel → Nat
  | .isprime .s0     => (w.n + 10).toNat
  | .isprime .s1     => (w.n + 10).toNat
  | .isprime _       => (w.n + 10 - w.c).toNat
  | .egcd .g0        => w.m.toNat
  | .egcd (.g1 k)    => corePassesLeft w k
  | .egcd .g2        => w.r1.toNat
  | .modinv .i0      => w.m.toNat
  | .modinv (.i1 k)  => corePassesLeft w k
  | .modinv _        => w.r1.toNat
  | .modpow _        => w.e.toNat

/-- How far a label of EGCD_CORE is from the end of its pass. -/
def CoreLabel.height : CoreLabel → Nat
  | .e0 => 13 | .e1 => 12 | .e2 => 11 | .e3 => 10 | .e4 => 9 | .e5 => 8 | .e6 => 7 | .e7 => 6

/-- How far a label is from the end of its pass, or of the command. -/
def StepLabel.height : StepLabel → Nat
  | .isprime .s0 => 4 | .isprime .s1 => 3 | .isprime .s2 => 2 | .isprime .s3 => 1
  | .isprime .s4 => 0
  | .egcd .g0 => 14 | .egcd (.g1 k) => k.height | .egcd .g2 => 0
  | .modinv .i0 => 14 | .modinv (.i1 k) => k.height
  | .modinv .i2 => 4 | .modinv .i3 => 3 | .modinv .i4 => 2 | .modinv .i5 => 1 | .modinv .i6 => 0
  | .modpow .p0 => 6 | .modpow .p1 => 5 | .modpow .p2 => 4 | .modpow .p3 => 3 | .modpow .p4 => 2
  | .modpow .p5 => 1 | .modpow .p6 => 0

theorem CoreLabel.height_lt (k : CoreLabel) : k.height < 14 := by cases k <;> decide

theorem StepLabel.height_lt (l : StepLabel) : l.height < 15 := by
  rcases l with l | (_ | k | _) | (_ | k | _ | _ | _ | _ | _) | l
  case egcd.g1 | modinv.i1 => exact k.height_lt.trans (by decide)
  case isprime | modpow => cases l <;> decide
  all_goals decide

/-- The steps that are left, at most: a pass has fewer than 15. -/
def stepsLeft (w : Work) (l : StepLabel) : Nat := 15 * passesLeft w l + l.height

section
variable {w w' : Work} {l l' : StepLabel} {r : Request}

theorem stepsLeft_lt_of_pass (h : passesLeft w' l' < passesLeft w l) :
    stepsLeft w' l' < stepsLeft w l := by
  have := l'.height_lt
  unfold stepsLeft
  omega

theorem stepsLeft_lt_of_height (hp : passesLeft w' l' = passesLeft w l)
    (hh : l'.height < l.height) : stepsLeft w' l' < stepsLeft w l := by
  unfold stepsLeft
  omega

/-! ### Every step lowers it -/

/-- The commands that run EGCD_CORE place its labels so. -/
theorem stepsLeft_lt_in_core {inCore : CoreLabel → StepLabel} (hin : inCore = inG1 ∨ inCore = inI1)
    {k k' : CoreLabel} (h : corePassesLeft w' k' < corePassesLeft w k ∨
      (corePassesLeft w' k' = corePassesLeft w k ∧ k'.height < k.height)) :
    stepsLeft w' (inCore k') < stepsLeft w (inCore k) := by
  obtain rfl | rfl := hin <;>
    exact h.elim (fun hp => stepsLeft_lt_of_pass hp) fun ⟨hp, hh⟩ => stepsLeft_lt_of_height hp hh

theorem coreStart_goto_lower {k k' : CoreLabel} (h : coreStart k w = (w', .goto k')) :
    corePassesLeft w' k' = corePassesLeft w k ∧ k'.height < k.height := by
  cases k
  case e0 => cases h; exact ⟨rfl, by decide⟩
  case e1 => simp only [coreStart] at h; split at h <;> cases h; exact ⟨rfl, by decide⟩
  all_goals cases h

/-- The pass ends at E7, where the remainder becomes the divisor. -/
theorem coreResume_goto_lower {k k' : CoreLabel} (hr : CoreRequest w k r) (hok : CoreOk w k)
    (h : coreResume k r.result w = (w', .goto k')) : corePassesLeft w' k' < corePassesLeft w k ∨
      (corePassesLeft w' k' = corePassesLeft w k ∧ k'.height < k.height) := by
  cases hr
  case e7 =>
    cases h
    obtain ⟨hpos, -, -, hlt, -⟩ := hok
    exact .inl ((Int.toNat_lt_toNat hpos).mpr hlt)
  all_goals cases h; exact .inr ⟨rfl, by decide⟩

theorem startStep_goto_lower (h : startStep l w = ⟨w', .goto l'⟩) :
    stepsLeft w' l' < stepsLeft w l := by
  cases l with
  | isprime l =>
    cases l
    case s0 =>
      simp only [startStep, isprimeStart] at h
      split_ifs at h <;> cases h
      exact stepsLeft_lt_of_height rfl (by decide)
    all_goals cases h
  | egcd l =>
    cases l with
    | g0 =>
      simp only [startStep, egcdStart] at h
      split at h <;> cases h
      exact stepsLeft_lt_of_height rfl (by decide)
    | g1 k =>
      obtain ⟨k', hk, rfl⟩ | ⟨hk, rfl⟩ := liftCore_goto h
      · exact stepsLeft_lt_in_core (.inl rfl) (.inr (coreStart_goto_lower hk))
      · obtain ⟨rfl, rfl⟩ := coreStart_ret hk
        exact stepsLeft_lt_of_height rfl (by decide)
    | g2 => cases h
  | modinv l =>
    cases l
    case i0 | i2 =>
      simp only [startStep, modinvStart] at h
      split at h <;> cases h
      exact stepsLeft_lt_of_height rfl (by decide)
    case i1 k =>
      obtain ⟨k', hk, rfl⟩ | ⟨hk, rfl⟩ := liftCore_goto h
      · exact stepsLeft_lt_in_core (.inr rfl) (.inr (coreStart_goto_lower hk))
      · obtain ⟨rfl, rfl⟩ := coreStart_ret hk
        exact stepsLeft_lt_of_height rfl (by decide)
    all_goals cases h
  | modpow l =>
    cases l
    case p0 | p2 =>
      simp only [startStep, modpowStart] at h
      split_ifs at h <;> cases h <;> exact stepsLeft_lt_of_height rfl (by decide)
    all_goals cases h

/-- A pass ends at S4, where the candidate grows, at E7, or at P6, where the exponent is halved. -/
theorem resumeStep_goto_lower (hr : StepRequest w l r) (hok : LabelOk w l)
    (h : resumeStep l r.result w = ⟨w', .goto l'⟩) : stepsLeft w' l' < stepsLeft w l := by
  cases hr with
  | s1 =>
    simp only [resumeStep, isprimeResume] at h
    split at h <;> cases h
    have hn : 3 < w.n := hok
    exact stepsLeft_lt_of_pass (by simp only [passesLeft]; omega)
  | s2 | s3 =>
    simp only [resumeStep, isprimeResume] at h
    split at h <;> cases h
    exact stepsLeft_lt_of_height rfl (by decide)
  | s4 =>
    cases h
    obtain ⟨-, hc, hd, hcn⟩ := hok
    have hle : w.c ≤ w.n := by nlinarith
    exact stepsLeft_lt_of_pass (by simp only [passesLeft, Request.result, primAdd]; omega)
  | g1 hr =>
    obtain ⟨k', hk, rfl⟩ | ⟨hk, -⟩ := liftCore_goto h
    · exact stepsLeft_lt_in_core (.inl rfl) (coreResume_goto_lower hr hok.2 hk)
    · exact absurd hk (coreResume_ne_ret _ _ _ _)
  | i1 hr =>
    obtain ⟨k', hk, rfl⟩ | ⟨hk, -⟩ := liftCore_goto h
    · exact stepsLeft_lt_in_core (.inr rfl) (coreResume_goto_lower hr hok.2 hk)
    · exact absurd hk (coreResume_ne_ret _ _ _ _)
  | p6 =>
    cases h
    obtain ⟨-, he, -⟩ := hok
    exact stepsLeft_lt_of_pass (by simp only [passesLeft, halve]; omega)
  | i3 | i4 | i5 | p1 | p3 | p4 | p5 => cases h; exact stepsLeft_lt_of_height rfl (by decide)

end

/-! ### The engine's turns that are left, at most -/

/-- The turns of a CALL that are left: its request, the handshake, the answer, taking it (log 8). -/
def State.callTurnsLeft (s : State) : Nat :=
  match s.xpend, s.xrsp with
  | none,   _      => 4
  | some _, none   => if s.xacc then 2 else 3
  | some _, some _ => 1

/-- A step takes at most four turns. -/
def State.turnsLeft (s : State) : Nat :=
  match s.phase with
  | .idle  => 0
  | .run l => 4 * stepsLeft s.work l + s.callTurnsLeft

theorem turnsLeft_of_run {s : State} {l : StepLabel} (hp : s.phase = .run l) :
    s.turnsLeft = 4 * stepsLeft s.work l + s.callTurnsLeft := by
  simp [State.turnsLeft, hp]

theorem callTurnsLeft_bounds (s : State) : 1 ≤ s.callTurnsLeft ∧ s.callTurnsLeft ≤ 4 := by
  unfold State.callTurnsLeft
  split
  · decide
  · split <;> decide
  · decide

/-- A move that issues no request leaves the turns of the steps that it leaves. -/
theorem turnsLeft_applyMove_le (s : State) {mv : Move} {n : Nat}
    (hgoto : ∀ l, mv = ⟨mv.work, .goto l⟩ → stepsLeft mv.work l < n)
    (hcall : ∀ op x y, mv ≠ ⟨mv.work, .call op x y⟩) : (s.applyMove mv).turnsLeft ≤ 4 * n := by
  obtain ⟨w, nx⟩ := mv
  cases nx with
  | goto l =>
    have hlt : stepsLeft w l < n := hgoto l rfl
    obtain ⟨-, hcalls⟩ := callTurnsLeft_bounds (s.applyMove ⟨w, .goto l⟩)
    rw [turnsLeft_of_run (s := s.applyMove ⟨w, .goto l⟩) rfl, applyMove_work]
    dsimp only
    omega
  | call op x y => exact absurd rfl (hcall op x y)
  | commit v0 v1 v2 noinv =>
    rw [State.turnsLeft, State.applyMove, commit_phase]
    exact Nat.zero_le _
  | raise e => exact Nat.zero_le _

/-- Each turn of the engine in a running command lowers the turns that are left. -/
theorem EngineMove.turnsLeft_lt {s t : State} (h : EngineMove s t) (hi : Inv s) {l : StepLabel}
    (hp : s.phase = .run l) : t.turnsLeft < s.turnsLeft := by
  obtain ⟨hcalls, -⟩ := callTurnsLeft_bounds s
  rw [turnsLeft_of_run hp]
  cases h with
  | inReset hrst => cases hrst.symm.trans (inv_rst_of_running hi (by rw [hp]; rfl))
  | idle hp' _ _ => cases hp.symm.trans hp'
  | discard hp' _ => cases hp.symm.trans hp'
  | handshake hx hv ha =>
    rw [turnsLeft_of_run (s := s.acceptRequest) hp]
    simp [State.callTurnsLeft, hx, hv, ha]
  | answer hx hv ha =>
    rw [turnsLeft_of_run (s := s.respond _) hp]
    simp [State.callTurnsLeft, hx, hv, ha]
  | start hp' hx hv =>
    cases hp.symm.trans hp'
    by_cases hc : ∃ op x y, startStep l s.work = ⟨s.work, .call op x y⟩
    · obtain ⟨op, x, y, hc⟩ := hc
      rw [hc, turnsLeft_of_run (s := s.applyMove ⟨s.work, .call op x y⟩) hp, applyMove_work]
      simp [State.callTurnsLeft, State.applyMove, hx, hv]
    · have hle := turnsLeft_applyMove_le s (fun _ hg => startStep_goto_lower hg)
        fun op x y hm => hc ⟨op, x, y, hm.trans (by rw [startStep_call_work hm])⟩
      omega
  | resume hp' hv =>
    cases hp.symm.trans hp'
    obtain ⟨-, r, hx, rfl⟩ := hi.response _ hv
    have hle := turnsLeft_applyMove_le s.takeResponse
      (fun _ hg => resumeStep_goto_lower (inv_stepRequest hi hp hx) (hi.label l hp) hg)
      fun op x y hm => resumeStep_ne_call _ _ _ _ op x y hm
    omega

/-! ### Runs of the engine -/

theorem runsTo_zero_iff {s t : State} : RunsTo 0 s t ↔ s = t ∧ s.phase = .idle := by
  constructor
  · rintro ⟨rfl, hp, -⟩
    exact ⟨rfl, hp⟩
  · rintro ⟨rfl, hp⟩
    exact ⟨rfl, hp, nofun⟩

theorem runsTo_succ_iff {s u t : State} {n : Nat} (hs : step s = .next u) :
    RunsTo (n + 1) s t ↔ s.phase.running = true ∧ RunsTo n u t := by
  constructor
  · rintro ⟨hreach, hp, hrun⟩
    refine ⟨hrun 0 n.succ_pos s rfl, (reaches_succ_iff_of_step hs).mp hreach, hp, ?_⟩
    intro k hk x hx
    exact hrun (k + 1) (Nat.succ_lt_succ hk) x ((reaches_succ_iff_of_step hs).mpr hx)
  · rintro ⟨hr, hreach, hp, hrun⟩
    refine ⟨(reaches_succ_iff_of_step hs).mpr hreach, hp, fun k hk x hx => ?_⟩
    cases k with
    | zero   => obtain rfl : s = x := hx; exact hr
    | succ k =>
      exact hrun k (Nat.lt_of_succ_lt_succ hk) x ((reaches_succ_iff_of_step hs).mp hx)

/-- With reset released, each move is the engine's turn in its state. -/
theorem EngineMove.engineTurn {s t : State} (h : EngineMove s t) (hrst : s.rst = false) :
    Machine.engineTurn exec s = .next t := by
  cases h with
  | inReset hr => cases hrst.symm.trans hr
  | _ => simp [Machine.engineTurn, State.sequencerTurn, *]

/-- A command runs and no turn is scheduled: the engine moves until the command ends (log 7). -/
structure EngineRun (s : State) : Prop where
  inv     : Inv s
  running : s.phase.running = true
  sched   : s.sched = []

theorem Ready.engineRun {s : State} (h : Ready s) (c : Command) : EngineRun (s.accept c) :=
  ⟨inv_accept h.inv h.idle h.rst c, rfl, h.sched⟩

theorem exec_command_of_idle {s : State} (c : Command) (h : s.phase = .idle) :
    exec c.instr s = .next (s.accept c) := by
  rw [exec_command, issue_of_idle c h]

/-- Past the end of the schedule there is no turn to take off it (log 7). -/
theorem popTurn_of_nil {s : State} (hs : s.sched = []) : s.popTurn = s := by
  rw [State.popTurn, hs, List.tail_nil, ← hs]

theorem EngineRun.label {s : State} (h : EngineRun s) : ∃ l, s.phase = .run l := by
  have hr := h.running
  cases hp : s.phase with
  | idle  => rw [hp] at hr; cases hr
  | run l => exact ⟨l, rfl⟩

theorem EngineRun.rst {s : State} (h : EngineRun s) : s.rst = false :=
  inv_rst_of_running h.inv h.running

/-- The step of a running command is the engine's turn. -/
theorem EngineRun.step_eq {s : State} (h : EngineRun s) : step s = engineTurn exec s := by
  have hn : s.nextTurn = .engine := by
    simp [State.nextTurn, State.engineReady, h.sched, h.running, h.rst]
  rw [Machine.step_eq, hn, popTurn_of_nil h.sched]
  rfl

theorem EngineRun.step_iff {s t : State} (h : EngineRun s) : step s = .next t ↔ EngineMove s t := by
  rw [h.step_eq]
  exact ⟨engineMove_of_engineTurn, (·.engineTurn h.rst)⟩

/-- If the command still runs after a turn, the engine moves again. -/
theorem EngineRun.next {s t : State} (h : EngineRun s) (ht : step s = .next t)
    (hr : t.phase.running = true) : EngineRun t := by
  have hsched : t.sched = s.sched := by rw [(h.step_iff.mp ht).frame.1]
  exact ⟨inv_step h.inv ht, hr, hsched.trans h.sched⟩

/-- A running command ends, whatever its operands are (R130, R132). -/
theorem EngineRun.runsTo {s : State} (h : EngineRun s) : ∃ n t, RunsTo n s t := by
  induction hm : s.turnsLeft using Nat.strong_induction_on generalizing s with
  | _ m ih =>
    obtain ⟨l, hp⟩ := h.label
    obtain ⟨u, hu⟩ := engineTurn_next s
    rw [← h.step_eq] at hu
    obtain ⟨n, t, ht⟩ : ∃ n t, RunsTo n u t := by
      cases hq : u.phase with
      | idle   => exact ⟨0, u, runsTo_zero_iff.mpr ⟨rfl, hq⟩⟩
      | run l' =>
        have hlt : u.turnsLeft < m := hm ▸ (h.step_iff.mp hu).turnsLeft_lt h.inv hp
        exact ih u.turnsLeft hlt (h.next hu (by rw [hq]; rfl)) rfl
    exact ⟨n + 1, t, (runsTo_succ_iff hu).mpr ⟨h.running, ht⟩⟩

end Sys2Proof.Machine
end

section
/-! A command's run depends on its operands only (O49): two runs whose working registers agree where
the steps to come still read them go on together. -/

namespace Sys2Proof.Machine

/-! ### The registers that are still read -/

/-- The working registers that hold something between two passes of EGCD_CORE (R170), with the
modulus, which MODINV reads again after the loop (R173). -/
def passRegs : List (Work → Int) := [Work.m, Work.r0, Work.r1, Work.s0, Work.s1, Work.t0, Work.t1]

/-- The working registers that hold something at a label of EGCD_CORE (R170). -/
def coreRegs : CoreLabel → List (Work → Int)
  | .e0 => [Work.a, Work.m]
  | .e1 => passRegs
  | .e2 => passRegs
  | .e3 => Work.q :: passRegs
  | .e4 => Work.rem :: Work.q :: passRegs
  | .e5 => Work.u :: Work.rem :: Work.q :: passRegs
  | .e6 => Work.rem :: Work.q :: passRegs
  | .e7 => Work.u :: Work.rem :: passRegs

/-- Working registers among which are all that the steps from a label on read before they write
them; the snapshot or a step has written each of them (R85, R151, R172, R173, R191). -/
def liveRegs : StepLabel → List (Work → Int)
  | .isprime .s0    => [Work.n]
  | .isprime .s1    => [Work.n]
  | .isprime _      => [Work.n, Work.c, Work.d]
  | .egcd .g0       => [Work.a, Work.m]
  | .egcd (.g1 k)   => coreRegs k
  | .egcd .g2       => passRegs
  | .modinv .i0     => [Work.a, Work.m]
  | .modinv (.i1 k) => coreRegs k
  | .modinv .i2     => passRegs
  | .modinv .i3     => passRegs
  | .modinv _       => [Work.m, Work.u]
  | .modpow .p0     => [Work.b, Work.e, Work.m]
  | .modpow .p1     => [Work.b, Work.e, Work.m]
  | .modpow .p4     => [Work.b, Work.e, Work.m, Work.res, Work.t]
  | .modpow .p6     => [Work.b, Work.e, Work.m, Work.res, Work.t]
  | .modpow _       => [Work.b, Work.e, Work.m, Work.res]

/-- Two sets of working registers agree on some of the registers. -/
def Agree (fs : List (Work → Int)) (w w' : Work) : Prop := ∀ f ∈ fs, f w = f w'

section
variable {w w' : Work} {l : StepLabel}

@[simp] theorem agree_nil : Agree [] w w' := nofun

@[simp] theorem agree_cons {f : Work → Int} {fs : List (Work → Int)} :
    Agree (f :: fs) w w' ↔ f w = f w' ∧ Agree fs w w' :=
  List.forall_mem_cons

/-! ### Steps on registers that agree -/

/-- The registers that the steps after a step of EGCD_CORE at `k` may read. -/
def CoreNext.live (k : CoreLabel) : CoreNext → List (Work → Int)
  | .goto k'    => coreRegs k'
  | .call _ _ _ => coreRegs k
  | .ret        => passRegs

/-- The registers that the steps after a step at `l` may read. -/
def Next.live (l : StepLabel) : Next → List (Work → Int)
  | .goto l'        => liveRegs l'
  | .call _ _ _     => liveRegs l
  | .commit _ _ _ _ => []
  | .raise _        => []

/-- Two steps of EGCD_CORE come to the same, with registers that agree for what follows. -/
def SameCore (k : CoreLabel) (p p' : Work × CoreNext) : Prop :=
  p.2 = p'.2 ∧ Agree (p.2.live k) p.1 p'.1

/-- Two steps come to the same, with registers that agree for what follows. -/
def SameMove (l : StepLabel) (mv mv' : Move) : Prop :=
  mv.next = mv'.next ∧ Agree (mv.next.live l) mv.work mv'.work

theorem coreStart_same {k : CoreLabel} (h : Agree (coreRegs k) w w') :
    SameCore k (coreStart k w) (coreStart k w') := by
  cases k
  case e0 =>
    simp only [coreRegs, agree_cons] at h
    exact ⟨rfl, by simp [coreStart, CoreNext.live, coreRegs, passRegs, h]⟩
  case e1 =>
    have hr1 : w.r1 = w'.r1 := h Work.r1 (by simp [coreRegs, passRegs])
    simp only [coreStart, hr1]
    split <;> exact ⟨rfl, h⟩
  all_goals
    refine ⟨?_, h⟩
    simp only [coreRegs, passRegs, agree_cons] at h
    simp [coreStart, h]

theorem coreResume_same {k : CoreLabel} (v : Int) (h : Agree (coreRegs k) w w') :
    SameCore k (coreResume k v w) (coreResume k v w') := by
  cases k <;> refine ⟨rfl, ?_⟩ <;> simp only [coreRegs, passRegs, agree_cons] at h <;>
    simp [coreResume, CoreNext.live, coreRegs, passRegs, h]

/-- What holds of the loop's steps holds of them inside a command. -/
theorem liftCore_same {inCore : CoreLabel → StepLabel} {after : StepLabel}
    (hin : ∀ k, liveRegs (inCore k) = coreRegs k) (hafter : liveRegs after = passRegs)
    {k : CoreLabel} {p p' : Work × CoreNext} (h : SameCore k p p') :
    SameMove (inCore k) (liftCore inCore after p) (liftCore inCore after p') := by
  obtain ⟨w, nx⟩ := p
  obtain ⟨w', nx'⟩ := p'
  obtain ⟨rfl, h⟩ : nx = nx' ∧ Agree (nx.live k) w w' := h
  refine ⟨by cases nx <;> rfl, ?_⟩
  cases nx <;> simpa [liftCore, Next.live, CoreNext.live, hin, hafter] using h

/-- A step branches on and calls with registers that agree, and leaves registers that agree. -/
theorem startStep_same (h : Agree (liveRegs l) w w') :
    SameMove l (startStep l w) (startStep l w') := by
  cases l with
  | isprime l =>
    cases l
    case s0 =>
      have hn : w.n = w'.n := h Work.n (by simp [liveRegs])
      simp only [startStep, isprimeStart, hn]
      split_ifs
      case neg => exact ⟨rfl, h⟩
      all_goals exact ⟨rfl, agree_nil⟩
    all_goals
      refine ⟨?_, h⟩
      simp only [liveRegs, agree_cons] at h
      simp [startStep, isprimeStart, h]
  | egcd l =>
    cases l with
    | g0 =>
      have hm : w.m = w'.m := h Work.m (by simp [liveRegs])
      simp only [startStep, egcdStart, hm]
      split
      · exact ⟨rfl, agree_nil⟩
      · exact ⟨rfl, h⟩
    | g1 k => exact liftCore_same (fun _ => rfl) rfl (coreStart_same h)
    | g2 =>
      refine ⟨?_, agree_nil⟩
      simp only [liveRegs, passRegs, agree_cons] at h
      simp [startStep, egcdStart, h]
  | modinv l =>
    cases l
    case i0 =>
      have hm : w.m = w'.m := h Work.m (by simp [liveRegs])
      simp only [startStep, modinvStart, hm]
      split
      · exact ⟨rfl, agree_nil⟩
      · exact ⟨rfl, h⟩
    case i1 k => exact liftCore_same (fun _ => rfl) rfl (coreStart_same h)
    case i2 =>
      have hr0 : w.r0 = w'.r0 := h Work.r0 (by simp [liveRegs, passRegs])
      simp only [startStep, modinvStart, hr0]
      split
      · exact ⟨rfl, agree_nil⟩
      · exact ⟨rfl, h⟩
    case i6 =>
      refine ⟨?_, agree_nil⟩
      simp only [liveRegs, agree_cons] at h
      simp [startStep, modinvStart, h]
    all_goals
      refine ⟨?_, h⟩
      simp only [liveRegs, passRegs, agree_cons] at h
      simp [startStep, modinvStart, h]
  | modpow l =>
    cases l
    case p0 =>
      have hm : w.m = w'.m := h Work.m (by simp [liveRegs])
      have he : w.e = w'.e := h Work.e (by simp [liveRegs])
      simp only [startStep, modpowStart, hm, he]
      split_ifs
      case neg => exact ⟨rfl, h⟩
      all_goals exact ⟨rfl, agree_nil⟩
    case p2 =>
      have he : w.e = w'.e := h Work.e (by simp [liveRegs])
      have hres : w.res = w'.res := h Work.res (by simp [liveRegs])
      simp only [startStep, modpowStart, he, hres]
      split_ifs
      case pos => exact ⟨rfl, agree_nil⟩
      all_goals exact ⟨rfl, h⟩
    all_goals
      refine ⟨?_, h⟩
      simp only [liveRegs, agree_cons] at h
      simp [startStep, modpowStart, h]

/-- With the same response, the rest of a step leaves registers that agree. -/
theorem resumeStep_same (v : Int) (h : Agree (liveRegs l) w w') :
    SameMove l (resumeStep l v w) (resumeStep l v w') := by
  cases l with
  | isprime l =>
    cases l <;> simp only [liveRegs, agree_cons] at h <;>
      simp only [resumeStep, isprimeResume, h] <;> (try split) <;>
      exact ⟨rfl, by simp [Next.live, liveRegs, h]⟩
  | egcd l =>
    cases l with
    | g1 k => exact liftCore_same (fun _ => rfl) rfl (coreResume_same v h)
    | _    => exact ⟨rfl, h⟩
  | modinv l =>
    cases l
    case i1 k => exact liftCore_same (fun _ => rfl) rfl (coreResume_same v h)
    case i3 | i4 | i5 =>
      simp only [liveRegs, passRegs, agree_cons] at h
      exact ⟨rfl, by simp [resumeStep, modinvResume, Next.live, liveRegs, h]⟩
    all_goals exact ⟨rfl, h⟩
  | modpow l =>
    cases l <;> simp only [liveRegs, agree_cons] at h <;>
      exact ⟨rfl, by simp [resumeStep, modpowResume, Next.live, liveRegs, h]⟩
end

/-! ### No step raises the code of success (R210) -/

theorem liftCore_ne_raise (inCore : CoreLabel → StepLabel) (after : StepLabel)
    (p : Work × CoreNext) (e : ErrCode) : (liftCore inCore after p).next ≠ .raise e := by
  obtain ⟨w, nx⟩ := p
  cases nx <;> nofun

theorem startStep_ne_raise_none (l : StepLabel) (w : Work) :
    (startStep l w).next ≠ .raise .none := by
  cases l with
  | isprime l =>
    cases l
    case s0 => simp only [startStep, isprimeStart]; split_ifs <;> nofun
    all_goals nofun
  | egcd l =>
    cases l
    case g0 => simp only [startStep, egcdStart]; split <;> nofun
    case g1 k => exact liftCore_ne_raise _ _ _ _
    case g2 => nofun
  | modinv l =>
    cases l
    case i0 | i2 => simp only [startStep, modinvStart]; split <;> nofun
    case i1 k => exact liftCore_ne_raise _ _ _ _
    all_goals nofun
  | modpow l =>
    cases l
    case p0 | p2 => simp only [startStep, modpowStart]; split_ifs <;> nofun
    all_goals nofun

theorem resumeStep_ne_raise (l : StepLabel) (v : Int) (w : Work) (e : ErrCode) :
    (resumeStep l v w).next ≠ .raise e := by
  cases l with
  | isprime l =>
    cases l
    case s1 | s2 | s3 => simp only [resumeStep, isprimeResume]; split <;> nofun
    all_goals nofun
  | egcd l =>
    cases l
    case g1 k => exact liftCore_ne_raise _ _ _ _
    all_goals nofun
  | modinv l =>
    cases l
    case i1 k => exact liftCore_ne_raise _ _ _ _
    all_goals nofun
  | modpow l => cases l <;> nofun

/-! ### Two runs -/

/-- Two blocks at the same point of a command, which go on alike: the registers that are still read
agree while it runs, and the results once it has succeeded. Of STATUS all but CMD_OVR agrees. -/
structure SameRun (s s' : State) : Prop where
  width   : s.params.w = s'.params.w
  phase   : s.phase = s'.phase
  xpend   : s.xpend = s'.xpend
  xacc    : s.xacc = s'.xacc
  xrsp    : s.xrsp = s'.xrsp
  status  : s.status.overrun = s'.status.overrun
  live    : ∀ l, s.phase = .run l → Agree (liveRegs l) s.work s'.work
  results : s.phase = .idle → s.status.err = .none →
    s.res0 = s'.res0 ∧ s.res1 = s'.res1 ∧ s.res2 = s'.res2

section
variable {s s' : State}

theorem SameRun.status_fields (h : SameRun s s') :
    s.status.busy = s'.status.busy ∧ s.status.done = s'.status.done ∧
      s.status.noinv = s'.status.noinv ∧ s.status.err = s'.status.err ∧
      s.status.lastOp = s'.status.lastOp := by
  simpa [Status.overrun] using h.status

theorem wordsOf_congr {p p' : Params} (h : p.w = p'.w) (v : Int) : wordsOf p v = wordsOf p' v := by
  rw [wordsOf, wordsOf, Params.nw, Params.nw, h]

theorem SameRun.takeResponse (h : SameRun s s') : SameRun s.takeResponse s'.takeResponse :=
  { h with xpend := rfl, xacc := rfl, xrsp := rfl }

theorem SameRun.raiseError (h : SameRun s s') (w w' : Work) {e : ErrCode} (he : e ≠ .none) :
    SameRun (State.raiseError { s with work := w } e) (State.raiseError { s' with work := w' } e) :=
  { h with
    phase   := rfl
    status  := congrArg (Status.raised · e) h.status
    live    := nofun
    results := fun _ hn => absurd hn he }

theorem SameRun.commit (h : SameRun s s') (w w' : Work) (v0 v1 v2 : Int) (noinv : Bool) :
    SameRun (State.commit { s with work := w } v0 v1 v2 noinv)
      (State.commit { s' with work := w' } v0 v1 v2 noinv) := by
  unfold State.commit
  rw [h.width]
  split
  · exact { h with
      phase   := rfl
      status  := congrArg (Status.committed · noinv) h.status
      live    := nofun
      results := fun _ _ =>
        ⟨wordsOf_congr h.width v0, wordsOf_congr h.width v1, wordsOf_congr h.width v2⟩ }
  · exact h.raiseError w w' (by decide)

theorem SameRun.applyMove (h : SameRun s s') {l : StepLabel} (hp : s.phase = .run l)
    {mv mv' : Move} (hm : SameMove l mv mv') (hne : mv.next ≠ .raise .none) :
    SameRun (s.applyMove mv) (s'.applyMove mv') := by
  obtain ⟨w, nx⟩ := mv
  obtain ⟨w', nx'⟩ := mv'
  obtain ⟨rfl, hlive⟩ : nx = nx' ∧ Agree (nx.live l) w w' := hm
  cases nx with
  | goto l' =>
    exact { h with
      phase   := rfl
      live    := by rintro _ ⟨⟩; exact hlive
      results := nofun }
  | call op x y =>
    exact { h with
      xpend   := rfl
      xacc    := rfl
      live    := fun l' hl' => by cases hp.symm.trans hl'; exact hlive
      results := fun hi => by cases hp.symm.trans hi }
  | commit v0 v1 v2 noinv => exact h.commit w w' v0 v1 v2 noinv
  | raise e => exact h.raiseError w w' fun he => hne (he ▸ rfl)

/-- The engine's turns keep two runs alike. -/
theorem SameRun.engineMove (h : SameRun s s') {t : State} (hm : EngineMove s t)
    (hrst : s.rst = false) : ∃ t', EngineMove s' t' ∧ SameRun t t' := by
  cases hm with
  | inReset hr => cases hrst.symm.trans hr
  | idle hp hx hv => exact ⟨s', .idle (h.phase ▸ hp) (h.xpend ▸ hx) (h.xrsp ▸ hv), h⟩
  | discard hp hv =>
    exact ⟨s'.takeResponse, .discard (h.phase ▸ hp) (h.xrsp ▸ hv), h.takeResponse⟩
  | handshake hx hv ha =>
    exact ⟨s'.acceptRequest, .handshake (h.xpend ▸ hx) (h.xrsp ▸ hv) (h.xacc ▸ ha),
      { h with xacc := rfl }⟩
  | @answer r hx hv ha =>
    exact ⟨s'.respond r.result, .answer (h.xpend ▸ hx) (h.xrsp ▸ hv) (h.xacc ▸ ha),
      { h with xrsp := rfl }⟩
  | @start l hp hx hv =>
    exact ⟨_, .start (h.phase ▸ hp) (h.xpend ▸ hx) (h.xrsp ▸ hv),
      h.applyMove hp (startStep_same (h.live l hp)) (startStep_ne_raise_none _ _)⟩
  | @resume l hp v hv =>
    exact ⟨_, .resume (h.phase ▸ hp) (h.xrsp ▸ hv),
      h.takeResponse.applyMove hp (resumeStep_same v (h.live l hp)) (resumeStep_ne_raise _ _ _ _)⟩

/-- Two runs that are alike issue the same requests. -/
theorem SameRun.issued {t t' : State} (h : SameRun s s') (ht : SameRun t t') :
    issued s t = issued s' t' := by
  rw [Machine.issued, Machine.issued, h.xpend, ht.xpend]

theorem portTrace_succ {t : State} {n : Nat} (hs : step s = .next t) :
    portTrace (n + 1) s = issued s t ++ portTrace n t := by
  rw [portTrace, hs]

/-- A running command does with other working registers what it does with these, if they agree where
it still reads them. -/
theorem SameRun.runsTo {n : Nat} {t : State} (h : SameRun s s')
    (hr : s.phase.running = true → EngineRun s) (hr' : s'.phase.running = true → EngineRun s')
    (hrun : RunsTo n s t) :
    ∃ t', RunsTo n s' t' ∧ SameRun t t' ∧ portTrace n s = portTrace n s' := by
  induction n generalizing s s' with
  | zero =>
    obtain ⟨rfl, hp⟩ := runsTo_zero_iff.mp hrun
    exact ⟨s', runsTo_zero_iff.mpr ⟨rfl, h.phase ▸ hp⟩, h, rfl⟩
  | succ n ih =>
    obtain ⟨u, hu, -⟩ := hrun.1
    obtain ⟨hp, hrun'⟩ := (runsTo_succ_iff hu).mp hrun
    have hs : EngineRun s := hr hp
    have hs' : EngineRun s' := hr' (h.phase ▸ hp)
    obtain ⟨u', hm', hsame⟩ := h.engineMove (hs.step_iff.mp hu) hs.rst
    have hu' : step s' = .next u' := hs'.step_iff.mpr hm'
    obtain ⟨t', ht', hend, htrace⟩ := ih hsame (hs.next hu) (hs'.next hu') hrun'
    refine ⟨t', (runsTo_succ_iff hu').mpr ⟨hs'.running, ht'⟩, hend, ?_⟩
    rw [portTrace_succ hu, portTrace_succ hu', h.issued hsame, htrace]

theorem Ready.port (h : Ready s) : s.xpend = none ∧ s.xacc = false ∧ s.xrsp = none := by
  obtain ⟨hx, hv⟩ := h.inv.idlePort h.idle
  refine ⟨hx, Bool.eq_false_iff.mpr fun ha => ?_, hv⟩
  obtain ⟨r, hr⟩ := h.inv.accepted ha
  cases hx.symm.trans hr

/-- Acceptance puts the used operands into all the registers that the first step may read (R85,
R123). -/
theorem sameRun_accept (h : Ready s) (h' : Ready s') (hw : s.params.w = s'.params.w) {c : Command}
    (ho : ∀ r ∈ usedOperands c, s.operand r = s'.operand r) :
    SameRun (s.accept c) (s'.accept c) := by
  obtain ⟨hx, ha, hv⟩ := h.port
  obtain ⟨hx', ha', hv'⟩ := h'.port
  refine ⟨hw, rfl, hx.trans hx'.symm, ha.trans ha'.symm, hv.trans hv'.symm, rfl, ?_, nofun⟩
  rintro _ ⟨⟩
  cases c <;> simpa [firstStep, liveRegs, State.snapshot, usedOperands] using ho
end

/-- Settles O49: the command ends from the first block, and from the second alike. -/
theorem completionDependsOnUsedOperandsOnly : Obligations.CompletionDependsOnUsedOperandsOnly := by
  intro c s s' h h' hw ho
  obtain ⟨n, t, ht⟩ := (h.engineRun c).runsTo
  obtain ⟨t', ht', hend, htrace⟩ :=
    (sameRun_accept h h' hw ho).runsTo (fun _ => h.engineRun c) (fun _ => h'.engineRun c) ht
  have ⟨_, hidle, _⟩ := ht
  have ⟨hbusy, hdone, hnoinv, herr, hop⟩ := hend.status_fields
  exact ⟨s.accept c, s'.accept c, t, t', n, exec_command_of_idle c h.idle,
    exec_command_of_idle c h'.idle, ht, ht', htrace, herr, hnoinv, hdone, hbusy, hop,
    hend.results hidle⟩

end Sys2Proof.Machine
end

section
/-! The CMD write and the commit (O12, O13, O14, O15). -/

namespace Sys2Proof.Machine

/-! ### The CMD write -/

theorem issueIllegal_of_running {s : State} (v : Word) (h : s.phase.running = true) :
    s.issueIllegal v = s.overrun := by
  simp [State.issueIllegal, h]

theorem issueIllegal_of_idle {s : State} (v : Word) (h : s.phase = .idle) :
    s.issueIllegal v = { s with status := s.status.illegal (cmdOp v) } := by
  simp [State.issueIllegal, h, Phase.running]

/-- The write of a word that is no command's (R122). -/
theorem commandWrite_of_illegal {v : Word} (h : ∀ c : Command, v ≠ c.word) (s : State) :
    commandWrite exec v s = .next (s.issueIllegal v) := by
  obtain ⟨c, hc, -⟩ | ⟨-, hw⟩ := commandWrite_cases v s
  · exact absurd hc (h c)
  · exact hw

/-- Settles O12: an idle block accepts the command, whichever it is. -/
theorem commandWhileIdleIsAccepted : Obligations.CommandWhileIdleIsAccepted := by
  intro s hp
  have accepted (c : Command) := exec_command_of_idle c hp
  exact ⟨accepted .isprime, accepted .egcd, accepted .modinv, accepted .modpow⟩

/-- Settles O13: both kinds of CMD write are an overrun in RUN. -/
theorem commandWriteWhileBusyOnlySetsOverrun :
    Obligations.CommandWriteWhileBusyOnlySetsOverrun := by
  intro s v l hp
  have hr : s.phase.running = true := by rw [hp]; rfl
  refine ⟨?_, fun c => ?_⟩
  · obtain ⟨c, -, hw⟩ | ⟨-, hw⟩ := commandWrite_cases v s <;> rw [hw]
    · rw [issue_of_running c hr]; rfl
    · rw [issueIllegal_of_running v hr]; rfl
  · rw [exec_command, issue_of_running c hr]; rfl

/-- The OP fields of the commands are 1 to 4 (R81). -/
theorem Command.op_legal (c : Command) : c.op ≠ 0#4 ∧ ¬ 5#4 ≤ c.op := by
  cases c <;> decide

/-- Settles O14: such a word is no command's, so an idle block completes it as illegal. -/
theorem illegalWordCompletesAtOnce : Obligations.IllegalWordCompletesAtOnce := by
  intro s v hp hbad
  have hill (c : Command) : v ≠ c.word := by
    intro hc
    obtain ⟨hrsv, hop⟩ := (eq_word_iff v c).mp hc
    obtain ⟨hzero, hhigh⟩ := Command.op_legal c
    rw [hop] at hbad
    exact hbad.elim (· hrsv) (·.elim hzero hhigh)
  refine ⟨_, commandWrite_of_illegal hill s, ?_⟩
  rw [issueIllegal_of_idle v hp]
  exact ⟨rfl, Status.word_err _, Bool.and_true _⟩

/-! ### The commit -/

theorem fitsW_iff (w : Nat) (v : Int) :
    fitsW w v = true ↔ -(2 : Int) ^ (w - 1) ≤ v ∧ v ≤ 2 ^ (w - 1) - 1 := by
  simp [fitsW, fitsBits]

section
variable (s : State) {v0 v1 v2 : Int} (noinv : Bool)

theorem commit_of_fits (h0 : fitsW s.params.w v0 = true) (h1 : fitsW s.params.w v1 = true)
    (h2 : fitsW s.params.w v2 = true) :
    s.commit v0 v1 v2 noinv =
      { s with
        res0   := wordsOf s.params v0
        res1   := wordsOf s.params v1
        res2   := wordsOf s.params v2
        status := s.status.committed noinv
        phase  := .idle } := by
  simp [State.commit, h0, h1, h2]

theorem commit_of_not_fits (h : ¬ (fitsW s.params.w v0 = true ∧ fitsW s.params.w v1 = true ∧
      fitsW s.params.w v2 = true)) :
    s.commit v0 v1 v2 noinv = s.raiseError .resultRange :=
  if_neg fun hall => h (by simpa [and_assoc] using hall)
end

/-- Settles O15: the words of values that fit hold them; otherwise the commit raises. -/
theorem committedResultsReadBack : Obligations.CommittedResultsReadBack := by
  intro s v0 v1 v2 noinv hp
  simp only [← fitsW_iff]
  refine ⟨fun ⟨h0, h1, h2⟩ => ?_, fun h => commit_of_not_fits s noinv h⟩
  rw [commit_of_fits s noinv h0 h1 h2]
  exact ⟨valueOf_wordsOf hp h0, valueOf_wordsOf hp h1, valueOf_wordsOf hp h2, rfl⟩

end Sys2Proof.Machine
end

section
/-! The end of a host program (O54, O55). -/

namespace Sys2Proof.Machine

/-- While the block is idle, the engine's turn does nothing (R32, R130). -/
theorem step_engine_of_idle {s : State} (h : Inv s) (hp : s.phase = .idle)
    (hn : s.nextTurn = .engine) : step s = .next s.popTurn := by
  obtain ⟨hx, hv⟩ := h.idlePort hp
  rw [step_eq, hn]
  simp [takeTurn, engineTurn, State.sequencerTurn, hp, hx, hv]

/-- While the block is idle and no turn is scheduled, the host moves (log 7). -/
theorem nextTurn_of_idle {s : State} (h : Inv s) (hp : s.phase = .idle) (hs : s.sched = []) :
    s.nextTurn = .host := by
  obtain ⟨hx, hv⟩ := h.idlePort hp
  simp [State.nextTurn, State.engineReady, Phase.running, hs, hp, hx, hv]

/-- A turn of either agent after the end of a program changes the host only (R132). -/
theorem step_of_hostEnded {s : State} (h : Inv s) (he : s.hostEnded)
    (hn : s.nextTurn = .engine ∨ s.nextTurn = .host) :
    ∃ a, step s = .next { s.popTurn with host := a } ∧
      State.hostEnded { s.popTurn with host := a } := by
  obtain hn | hn := hn
  · exact ⟨s.host, step_engine_of_idle h he.1 hn, he⟩
  · rw [step_eq, hn]
    exact hostEnded_turn exec (s := s.popTurn) he

/-- Settles O54: each turn leaves the block as it is and the program ended. -/
theorem endedProgramChangesNothing : Obligations.EndedProgramChangesNothing := by
  intro s n h he hs
  induction n generalizing s with
  | zero => exact ⟨s.host, rfl, he⟩
  | succ n ih =>
    have hn : s.nextTurn = .engine ∨ s.nextTurn = .host := by
      cases hsched : s.sched with
      | nil         => exact .inr (nextTurn_of_idle h he.1 hsched)
      | cons u rest => rw [nextTurn_of_sched hsched]; exact hs u (by simp [hsched])
    obtain ⟨a, hstep, he'⟩ := step_of_hostEnded h he hn
    obtain ⟨b, hreach, hend⟩ := ih { s.popTurn with host := a } (inv_step h hstep) he'
      fun u hu => hs u (List.mem_of_mem_tail hu)
    have hdrop : s.sched.tail.drop n = s.sched.drop (n + 1) := by rw [List.drop_tail]
    simp only [popTurn_sched, hdrop] at hreach hend
    exact ⟨b, ⟨_, hstep, hreach⟩, hend⟩

/-- A host with no quiet turn stands at a line that makes an access or has a fault. -/
theorem quietTurn_eq_none {p : Params} {h : HostAgent} (hq : quietTurn p h = none) :
    ∃ st, h.prog[h.pc]? = some st ∧
      (quietLine p h st = none ∨ ∃ f, quietLine p h st = some (.error f)) := by
  unfold quietTurn at hq
  split at hq
  · cases hq
  · rename_i st hst
    refine ⟨st, hst, ?_⟩
    split at hq
    · cases hq
    · exact .inr ⟨_, ‹_›⟩
    · exact .inl ‹_›

/-- Settles O55: the quiet turns of the host, up to the first that is not. -/
theorem unendedProgramComesToAnAccess : Obligations.UnendedProgramComesToAnAccess := by
  intro s hinv hp hs hne
  obtain ⟨m, hm⟩ : ∃ m, quietFor s.params m s.host = false := by
    simpa [State.hostEnded, hp] using hne
  clear hne
  induction m generalizing s with
  | zero => cases hm
  | succ m ih =>
    cases hq : quietTurn s.params s.host with
    | none =>
      obtain ⟨st, hst, hline⟩ := quietTurn_eq_none hq
      exact ⟨0, s.host, st, rfl, hst, hline⟩
    | some a =>
      have hstep := step_of_quiet (nextTurn_of_idle hinv hp hs) hq
      rw [popTurn_of_nil hs] at hstep
      obtain ⟨n, b, st, hreach, hst, hline⟩ := ih { s with host := a } (inv_step hinv hstep) hp hs
        (by simpa [quietFor, hq] using hm)
      exact ⟨n + 1, b, st, ⟨_, hstep, hreach⟩, hst, hline⟩

end Sys2Proof.Machine
end

section
/-! The register map, read and written (O21, O22). -/

namespace Sys2Proof.Machine

/-! ### Words of a register (R63) -/

/-- Bits 32k+31 : 32k of the number that the words are. -/
theorem wordsToNat_div_mod (r : DataReg) (k : Nat) :
    wordsToNat r / 2 ^ (32 * k) % 2 ^ 32 = (r.getD k 0#32).toNat := by
  induction r generalizing k with
  | nil => simp [wordsToNat]
  | cons x xs ih =>
    cases k with
    | zero => simp [wordsToNat, Nat.mod_eq_of_lt x.isLt]
    | succ k =>
      have htail : (x.toNat + 2 ^ 32 * wordsToNat xs) / 2 ^ 32 = wordsToNat xs := by
        have := x.isLt
        omega
      rw [wordsToNat, show 32 * (k + 1) = 32 + 32 * k by ring, pow_add, ← Nat.div_div_eq_div_mul,
        htail, ih, List.getD_cons_succ]

/-- Word `k` of a register stands in bits 32k+31 : 32k of its pattern. -/
theorem patternOf_word {p : Params} (hp : p.Wf) (r : DataReg) {k : Nat} (hk : k < p.nw) :
    (patternOf p r).extractLsb' (32 * k) 32 = r.getD k 0#32 := by
  obtain ⟨hbits, -, -⟩ := nw_of_wf hp
  have hw : p.w = 32 * k + (p.w - 32 * k) := by omega
  have hdvd : 2 ^ 32 ∣ 2 ^ (p.w - 32 * k) := Nat.pow_dvd_pow 2 (by omega)
  rw [← BitVec.toNat_inj, BitVec.extractLsb'_toNat, patternOf, BitVec.toNat_ofNat,
    Nat.shiftRight_eq_div_pow, ← wordsToNat_div_mod]
  conv_lhs => rw [hw, pow_add, Nat.mod_mul_right_div_self, Nat.mod_mod_of_dvd _ hdvd]

theorem irqEnWord_eq (b : Bool) : irqEnWord b = if b then 1#32 else 0#32 := by
  cases b <;> rfl

/-! ### The register map (R21, R66) -/

/-- Where the words of the window stand (`targetAt_target`). -/
inductive TargetAt (nw o : Nat) : Target → Prop where
  | id (h : o = 0x000) : TargetAt nw o .id
  | param (h : o = 0x004) : TargetAt nw o .param
  | cmd (h : o = 0x008) : TargetAt nw o .cmd
  | status (h : o = 0x00C) : TargetAt nw o .status
  | irqEn (h : o = 0x010) : TargetAt nw o .irqEn
  | opWord (r : OpReg) (hpage : o / 0x100 = offset (.op r) / 0x100) (hk : o % 0x100 / 4 < nw) :
      TargetAt nw o (.opWord r (o % 0x100 / 4))
  | resWord (r : ResReg) (hpage : o / 0x100 = offset (.res r) / 0x100) (hk : o % 0x100 / 4 < nw) :
      TargetAt nw o (.resWord r (o % 0x100 / 4))
  | unmapped : TargetAt nw o .unmapped

theorem targetAt_target (nw o : Nat) : TargetAt nw o (target nw o) := by
  simp only [target]
  split
  · split
    · exact .id rfl
    · exact .param rfl
    · exact .cmd rfl
    · exact .status rfl
    · exact .irqEn rfl
    · exact .unmapped
  · split
    · rename_i hk
      split
      · exact .opWord .opa ‹_› hk
      · exact .opWord .opb ‹_› hk
      · exact .opWord .opc ‹_› hk
      · exact .resWord .res0 ‹_› hk
      · exact .resWord .res1 ‹_› hk
      · exact .resWord .res2 ‹_› hk
      · exact .unmapped
    · exact .unmapped

theorem opReg_page (r : OpReg) : 1 ≤ offset (.op r) / 0x100 ∧ offset (.op r) / 0x100 < 4 := by
  cases r <;> decide

theorem resReg_page (r : ResReg) : 4 ≤ offset (.res r) / 0x100 ∧ offset (.res r) / 0x100 < 7 := by
  cases r <;> decide

/-- No register has a word at these offsets (R66). -/
theorem target_unmapped {nw o : Nat} (hal : o % 4 = 0)
    (h : (0x014 ≤ o ∧ o < 0x100) ∨ 0x700 ≤ o ∨ (0x100 ≤ o ∧ nw ≤ o % 0x100 / 4)) :
    target nw o = .unmapped := by
  have ht := targetAt_target nw o
  generalize target nw o = g at ht
  cases ht with
  | opWord r hpage hk  => have := opReg_page r; omega
  | resWord r hpage hk => have := resReg_page r; omega
  | unmapped => rfl
  | _ => omega

/-- The words that ignore a write: those of read-only registers and of none (R66, R121). -/
def Target.ignoresWrite : Target → Bool
  | .id          => true
  | .param       => true
  | .cmd         => false
  | .status      => false
  | .irqEn       => false
  | .opWord _ _  => false
  | .resWord _ _ => true
  | .unmapped    => true

theorem writeTarget_of_ignoresWrite {g : Target} (h : g.ignoresWrite = true) (s : State)
    (v : Word) : writeTarget s v g = s := by
  cases g
  case id | param | resWord | unmapped => rfl
  all_goals cases h

theorem target_ignoresWrite {nw o : Nat}
    (h : o = 0x000 ∨ o = 0x004 ∨ (0x014 ≤ o ∧ o < 0x100) ∨ 0x400 ≤ o ∨
      (0x100 ≤ o ∧ nw ≤ o % 0x100 / 4)) : (target nw o).ignoresWrite = true := by
  have ht := targetAt_target nw o
  generalize target nw o = g at ht
  cases ht with
  | opWord r hpage hk => have := opReg_page r; omega
  | cmd | status | irqEn => omega
  | _ => rfl

/-! ### Accesses at an offset of the window (R120, R121) -/

/-- The legal access at an offset, as O21 and O22 write it (`read_offset`, `write_offset`). -/
def offsetAccess (we : Bool) (o : Nat) (v : Word) : Access :=
  { we := we, addr := BitVec.ofNat 12 o, be := 0b1111#4, wdata := v }

section
variable {s : State} {o : Nat}

theorem offsetAccess_legal (hal : o % 4 = 0) (we : Bool) (v : Word) :
    (offsetAccess we o v).legal = true := by
  refine (legal_iff _).mpr ⟨rfl, ?_⟩
  rw [offsetAccess, BitVec.toNat_ofNat]
  omega

theorem targetOf_offsetAccess (s : State) (ho : o < 4096) (we : Bool) (v : Word) :
    s.targetOf (offsetAccess we o v) = target s.params.nw o := by
  rw [State.targetOf, offsetAccess, BitVec.toNat_ofNat, Nat.mod_eq_of_lt ho]

/-- A legal write to CMD is a command write, whatever its word (R122). -/
theorem portAccess_cmd {a : Access} (hrst : s.rst = false) (hl : a.legal = true) (hw : a.we = true)
    (ht : s.targetOf a = .cmd) :
    portAccess exec a s = commandWrite exec a.wdata { s with busReply := .wrote .okay } := by
  simp [portAccess, hrst, hl, hw, ht]

theorem read_offset (hrst : s.rst = false) (ho : o < 4096) (hal : o % 4 = 0) (d : Word) :
    portAccess exec (offsetAccess false o d) s =
      .next { s with busReply := .read .okay (readTarget s (target s.params.nw o)) } := by
  rw [portAccess_read hrst (offsetAccess_legal hal false d) rfl, targetOf_offsetAccess s ho]

theorem write_offset (hrst : s.rst = false) (ho : o < 4096) (hal : o % 4 = 0) (v : Word)
    {g : Target} (ht : target s.params.nw o = g) (hg : g ≠ .cmd) :
    portAccess exec (offsetAccess true o v) s =
      .next (writeTarget { s with busReply := .wrote .okay } v g) := by
  have ht' := (targetOf_offsetAccess s ho true v).trans ht
  rw [portAccess_write hrst (offsetAccess_legal hal true v) rfl (ht' ▸ hg), ht']
  rfl

end

/-- Settles O21: the target at each offset, and its data. -/
theorem readReturnsTheRegisterMap : Obligations.ReadReturnsTheRegisterMap := by
  intro s d hinv hrst reads
  have hread {o : Nat} {v : Word} (ho : o < 4096) (hal : o % 4 = 0)
      (hv : readTarget s (target s.params.nw o) = v) : reads o v := hv ▸ read_offset hrst ho hal d
  have hword (r : RegName) {k : Nat} (hk : k < s.params.nw) {g : Target} {reg : DataReg}
      (ht : target s.params.nw (offset r + 4 * k) = g) (hg : readTarget s g = reg.getD k 0#32) :
      reads (offset r + 4 * k) ((patternOf s.params reg).extractLsb' (32 * k) 32) := by
    have hoff := offset_mod_four r
    refine hread (word_in_window hinv.params r hk) (by omega) ?_
    rw [ht, hg, patternOf_word hinv.params reg hk]
  have hop (r : OpReg) {k : Nat} (hk : k < s.params.nw) :=
    hword (.op r) (reg := s.opReg r) hk (target_opWord hinv.params r hk) rfl
  have hres (r : ResReg) {k : Nat} (hk : k < s.params.nw) :=
    hword (.res r) (reg := s.resReg r) hk (target_resWord hinv.params r hk) rfl
  refine ⟨hread (by decide) (by decide) rfl, hread (by decide) (by decide) rfl,
    hread (by decide) (by decide) rfl, hread (by decide) (by decide) rfl,
    hread (by decide) (by decide) (irqEnWord_eq s.doneIe), fun k hk => ?_, fun o ho hal h => ?_⟩
  · exact ⟨hop .opa hk, hop .opb hk, hop .opc hk, hres .res0 hk, hres .res1 hk, hres .res2 hk⟩
  · exact hread ho hal (by rw [target_unmapped hal h]; rfl)

/-- Replacing word `k` of a register replaces that word of its pattern and no other. -/
theorem patternOf_set {p : Params} (hp : p.Wf) {r : DataReg} (hr : r.length = p.nw) {k : Nat}
    (hk : k < p.nw) (v : Word) {j : Nat} (hj : j < p.nw) :
    (patternOf p (r.set k v)).extractLsb' (32 * j) 32 =
      if j = k then v else (patternOf p r).extractLsb' (32 * j) 32 := by
  rw [patternOf_word hp _ hj, patternOf_word hp _ hj]
  by_cases hjk : j = k
  · subst hjk
    simp [hr, hj]
  · simp [hjk, Ne.symm hjk]

/-- Settles O22: the target at each offset, and its write. -/
theorem writeActsOnItsWordOnly : Obligations.WriteActsOnItsWordOnly := by
  intro s v hinv hrst s' writes newWord
  have hop (r : OpReg) {k : Nat} (hk : k < s.params.nw) :
      writes (offset (.op r) + 4 * k) = .next (s'.setOpReg ((s.opReg r).set k v) r) ∧
        newWord (s.opReg r) ((s.opReg r).set k v) k := by
    have hoff := offset_mod_four (.op r)
    have hlen := inv_opReg_length hinv r
    refine ⟨?_, List.length_set, fun j hj => patternOf_set hinv.params hlen hk v hj⟩
    refine (write_offset hrst (word_in_window hinv.params (.op r) hk) (by omega) v
      (target_opWord hinv.params r hk) nofun).trans ?_
    cases r <;> rfl
  refine ⟨?_, write_offset hrst (by decide) (by decide) v rfl nofun,
    write_offset hrst (by decide) (by decide) v rfl nofun, fun k hk => ?_, fun o ho hal h => ?_⟩
  · exact portAccess_cmd hrst (offsetAccess_legal (o := 0x008) (by decide) true v) rfl rfl
  · exact ⟨⟨_, hop .opa hk⟩, ⟨_, hop .opb hk⟩, ⟨_, hop .opc hk⟩⟩
  · have hg := target_ignoresWrite (nw := s.params.nw) h
    rw [← writeTarget_of_ignoresWrite hg s' v]
    exact write_offset hrst ho hal v rfl fun hc => by simp [hc, Target.ignoresWrite] at hg

end Sys2Proof.Machine
end

section
/-! A command's steps taken whole, each with its CALL (R107): a chain of them that ends in a commit or
an error is the run of the engine from the label where it begins. -/

namespace Sys2Proof.Machine

/-! ### Whole steps -/

/-- A step with its CALL answered: how many requests it issues (R107), and what it comes to. -/
def wholeStep (l : StepLabel) (w : Work) : Nat × Move :=
  match startStep l w with
  | ⟨w', .call op x y⟩ => (1, resumeStep l (Request.result ⟨op, x, y⟩) w')
  | mv                 => (0, mv)

/-- Either the step issues a request and goes on from its response, or it issues none. -/
theorem wholeStep_cases (l : StepLabel) (w : Work) :
    (∃ r : Request, startStep l w = ⟨w, .call r.op r.x r.y⟩ ∧
      wholeStep l w = (1, resumeStep l r.result w)) ∨
    ((∀ op x y, (startStep l w).next ≠ .call op x y) ∧ wholeStep l w = (0, startStep l w)) := by
  rcases hs : startStep l w with ⟨w', nx⟩
  cases nx with
  | call op x y =>
    cases startStep_call_work hs
    exact .inl ⟨⟨op, x, y⟩, rfl, by rw [wholeStep, hs]⟩
  | _ => exact .inr ⟨nofun, by rw [wholeStep, hs]⟩

/-- A commit or an error ends the command (R126, R127). -/
def Next.isEnd : Next → Bool
  | .goto _         => false
  | .call _ _ _     => false
  | .commit _ _ _ _ => true
  | .raise _        => true

/-- From this label and these registers the command ends with the move, `k` requests later. -/
inductive StepsEndWith : StepLabel → Work → (k : Nat) → Move → Prop where
  | last {l : StepLabel} {w : Work} {j : Nat} {mv : Move} (h : wholeStep l w = (j, mv))
      (hend : mv.next.isEnd = true) : StepsEndWith l w j mv
  | cons {l l' : StepLabel} {w w' : Work} {j k : Nat} {mv : Move}
      (h : wholeStep l w = (j, ⟨w', .goto l'⟩)) (hrest : StepsEndWith l' w' k mv) :
      StepsEndWith l w (j + k) mv

theorem StepsEndWith.isEnd {l : StepLabel} {w : Work} {k : Nat} {mv : Move}
    (h : StepsEndWith l w k mv) : mv.next.isEnd = true := by
  induction h with
  | last _ hend => exact hend
  | cons _ _ ih => exact ih

/-! ### Moves -/

theorem applyMove_xpend (s : State) {mv : Move} (h : ∀ op x y, mv.next ≠ .call op x y) :
    (s.applyMove mv).xpend = s.xpend := by
  obtain ⟨l, -, hm⟩ | ⟨op, x, y, hc, -⟩ | ⟨x, y, z, b, -, hm⟩ | ⟨e, -, hm⟩ := applyMove_cases s mv
  · rw [hm]
  · exact absurd hc (h op x y)
  · obtain ⟨-, -, -, hc⟩ | hc := commit_cases { s with work := mv.work } x y z b <;> rw [hm, hc]
    rfl
  · rw [hm]; rfl

theorem applyMove_idle_of_isEnd (s : State) {mv : Move} (h : mv.next.isEnd = true) :
    (s.applyMove mv).phase = .idle := by
  obtain ⟨l, hn, -⟩ | ⟨op, x, y, hn, -⟩ | ⟨x, y, z, b, -, hm⟩ | ⟨e, -, hm⟩ := applyMove_cases s mv
  · rw [hn] at h; cases h
  · rw [hn] at h; cases h
  · obtain ⟨-, -, -, hc⟩ | hc := commit_cases { s with work := mv.work } x y z b <;> rw [hm, hc]
    rfl
  · rw [hm]; rfl

/-- The registers and the label at which a command ends leave no trace. -/
theorem applyMove_goto_of_isEnd (s : State) (w : Work) (l : StepLabel) {mv : Move}
    (h : mv.next.isEnd = true) : (s.applyMove ⟨w, .goto l⟩).applyMove mv = s.applyMove mv := by
  obtain ⟨w', nx⟩ := mv
  cases nx with
  | goto _          => cases h
  | call _ _ _      => cases h
  | commit _ _ _ _  => rfl
  | raise _         => rfl

/-! ### Runs of the engine with their requests -/

/-- The running command ends in `t`, and issues `k` requests on the way. -/
def EndsWithCalls (k : Nat) (s t : State) : Prop :=
  ∃ n, RunsTo n s t ∧ (portTrace n s).length = k

theorem endsWithCalls_of_idle {s : State} (h : s.phase = .idle) : EndsWithCalls 0 s s :=
  ⟨0, runsTo_zero_iff.mpr ⟨rfl, h⟩, rfl⟩

section
variable {s t u : State} {l : StepLabel} {w : Work} {j k : Nat} {mv : Move}

theorem EngineRun.endsWithCalls_cons (h : EngineRun s) (hm : EngineMove s t)
    (ht : EndsWithCalls k t u) : EndsWithCalls ((issued s t).length + k) s u := by
  obtain ⟨n, hrun, hk⟩ := ht
  have hs : step s = .next t := h.step_iff.mpr hm
  refine ⟨n + 1, (runsTo_succ_iff hs).mpr ⟨h.running, hrun⟩, ?_⟩
  rw [portTrace_succ hs, List.length_append, hk]

theorem inv_xacc_eq_false (h : Inv s) (hx : s.xpend = none) : s.xacc = false := by
  refine Bool.eq_false_iff.mpr fun ha => ?_
  obtain ⟨r, hr⟩ := h.accepted ha
  cases hx.symm.trans hr

/-- Once its response is taken, a request leaves no trace (R107). -/
theorem takeResponse_of_request (h : Inv s) (hx : s.xpend = none) (r : Request) (v : Int) :
    (State.respond (State.acceptRequest { s with xpend := some r, xacc := false }) v).takeResponse =
      s := by
  have ha := inv_xacc_eq_false h hx
  have hv := inv_xrsp_eq_none h hx
  cases s
  subst hx ha hv
  rfl

/-- A step with a CALL is four turns of the engine and one request (R33, R107, log 8). -/
theorem EngineRun.endsWithCalls_call (h : EngineRun s) (hp : s.phase = .run l)
    (hx : s.xpend = none) {r : Request} (hs : startStep l s.work = ⟨s.work, .call r.op r.x r.y⟩)
    (ht : Inv (s.applyMove (resumeStep l r.result s.work)) →
      EndsWithCalls k (s.applyMove (resumeStep l r.result s.work)) u) :
    EndsWithCalls (1 + k) s u := by
  let s₁ : State := { s with xpend := some r, xacc := false }
  let s₂ := s₁.acceptRequest
  let s₃ := s₂.respond r.result
  have hv := inv_xrsp_eq_none h.inv hx
  have hrequest : EngineMove s s₁ := by
    have hmove := EngineMove.start hp hx hv
    rwa [hs] at hmove
  have hhandshake : EngineMove s₁ s₂ := .handshake rfl hv rfl
  have hanswer : EngineMove s₂ s₃ := .answer rfl hv rfl
  have htake : EngineMove s₃ (s.applyMove (resumeStep l r.result s.work)) := by
    have hmove : EngineMove s₃ (s₃.takeResponse.applyMove (resumeStep l r.result s.work)) :=
      .resume (s := s₃) hp rfl
    rwa [takeResponse_of_request h.inv hx] at hmove
  have h₁ : EngineRun s₁ := h.next (h.step_iff.mpr hrequest) h.running
  have h₂ : EngineRun s₂ := h₁.next (h₁.step_iff.mpr hhandshake) h.running
  have h₃ : EngineRun s₃ := h₂.next (h₂.step_iff.mpr hanswer) h.running
  have hrun := h.endsWithCalls_cons hrequest <| h₁.endsWithCalls_cons hhandshake <|
    h₂.endsWithCalls_cons hanswer <| h₃.endsWithCalls_cons htake (ht (htake.inv h₃.inv))
  simpa [issued, hx, s₁, s₂, s₃] using hrun

/-- A whole step is turns of the engine, with the requests that it issues. -/
theorem EngineRun.endsWithCalls_wholeStep (h : EngineRun s) (hp : s.phase = .run l)
    (hx : s.xpend = none) (hw : wholeStep l s.work = (j, mv))
    (ht : Inv (s.applyMove mv) → EndsWithCalls k (s.applyMove mv) u) :
    EndsWithCalls (j + k) s u := by
  obtain ⟨r, hs, hr⟩ | ⟨hne, hr⟩ := wholeStep_cases l s.work <;> cases hr.symm.trans hw
  · exact h.endsWithCalls_call hp hx hs ht
  · have hmove := EngineMove.start hp hx (inv_xrsp_eq_none h.inv hx)
    have hrun := h.endsWithCalls_cons hmove (ht (hmove.inv h.inv))
    simpa [issued, hx, applyMove_xpend s hne] using hrun

/-- The engine's run from a label is the chain of the whole steps from there. -/
theorem StepsEndWith.endsWithCalls (hsteps : StepsEndWith l w k mv) (h : EngineRun s)
    (hp : s.phase = .run l) (hx : s.xpend = none) (hwork : s.work = w) :
    EndsWithCalls k s (s.applyMove mv) := by
  induction hsteps generalizing s with
  | last hw hend =>
    exact h.endsWithCalls_wholeStep hp hx (hwork ▸ hw) fun _ =>
      endsWithCalls_of_idle (applyMove_idle_of_isEnd s hend)
  | @cons _ l' _ w' _ _ _ hw hrest ih =>
    refine h.endsWithCalls_wholeStep hp hx (hwork ▸ hw) fun hi => ?_
    have hend := ih ⟨hi, rfl, h.sched⟩ rfl hx rfl
    rwa [applyMove_goto_of_isEnd s w' l' hrest.isEnd] at hend
end

/-- A command whose steps commit values that fit completes with them (R123, R126). -/
theorem Ready.completes {s : State} (h : Ready s) {c : Command} {k : Nat} {w : Work}
    {v0 v1 v2 : Int} {noinv : Bool}
    (hsteps : StepsEndWith (firstStep c) (s.snapshot c) k ⟨w, .commit v0 v1 v2 noinv⟩)
    (h0 : fitsW s.params.w v0 = true) (h1 : fitsW s.params.w v1 = true)
    (h2 : fitsW s.params.w v2 = true) :
    EndsWithCalls k (s.accept c) (s.completed c w v0 v1 v2 noinv) := by
  have hend := hsteps.endsWithCalls (h.engineRun c) rfl h.port.1 rfl
  have hcommit : (s.accept c).applyMove ⟨w, .commit v0 v1 v2 noinv⟩ =
      s.completed c w v0 v1 v2 noinv := by
    refine (commit_of_fits { s.accept c with work := w } noinv h0 h1 h2).trans ?_
    rw [State.completed, ← h.idle]
    rfl
  rwa [hcommit] at hend

end Sys2Proof.Machine
end

section
/-! ISPRIME decides primality, and how many requests it issues (O37, O44): at S2 no candidate below
`w[c]` divides `w[n]`, so the least factor of `w[n]` is still to come. -/

namespace Sys2Proof.Machine

/-! ### The candidates (R152) -/

/-- The candidates of R152: 5, 7, 11, 13, and so on. -/
abbrev IsCandidate (c : Nat) : Prop := 5 ≤ c ∧ (c % 6 = 1 ∨ c % 6 = 5)

theorem gcd_six_eq_one_iff (c : Nat) : Nat.gcd c 6 = 1 ↔ c % 6 = 1 ∨ c % 6 = 5 := by
  have hlt : c % 6 < 6 := Nat.mod_lt _ (by decide)
  rw [Nat.gcd_comm, Nat.gcd_rec]
  interval_cases c % 6 <;> decide

/-- `candidates` counts them (R152). -/
theorem candidates_succ (b : Nat) :
    candidates (b + 1) = candidates b + if IsCandidate (b + 1) then 1 else 0 := by
  have htest : (decide (5 ≤ b + 1) && Nat.gcd (b + 1) 6 == 1) = decide (IsCandidate (b + 1)) := by
    rw [Bool.eq_iff_iff]
    simp [gcd_six_eq_one_iff]
  rw [candidates, candidates, List.range_succ, List.filter_append, List.length_append,
    List.filter_singleton, htest]
  by_cases h : IsCandidate (b + 1) <;> simp [h]

theorem candidates_mono : Monotone candidates :=
  monotone_nat_of_le_succ fun b => by rw [candidates_succ]; exact Nat.le_add_right _ _

/-- `c` is a candidate, and `d` the way from it to the next one. -/
structure Stride (c d : Nat) : Prop where
  five_le : 5 ≤ c
  gap     : c % 6 = 5 ∧ d = 2 ∨ c % 6 = 1 ∧ d = 4

section
variable {c d n : Nat} (h : Stride c d)
include h

theorem Stride.next : Stride (c + d) (6 - d) := by
  obtain ⟨h5, hgap⟩ := h
  exact ⟨by omega, by omega⟩

theorem Stride.isCandidate : IsCandidate c := by
  obtain ⟨h5, hgap⟩ := h
  exact ⟨h5, by omega⟩

theorem Stride.le_of_lt {x : Nat} (hx : IsCandidate x) (hlt : c < x) : c + d ≤ x := by
  obtain ⟨h5, hgap⟩ := h
  obtain ⟨-, hx⟩ := hx
  omega

theorem Stride.candidates_self : candidates c = candidates (c - 1) + 1 := by
  obtain ⟨b, rfl⟩ : ∃ b, c = b + 1 := ⟨c - 1, (Nat.succ_pred (by rintro rfl; cases h.five_le)).symm⟩
  rw [candidates_succ, if_pos h.isCandidate, Nat.add_sub_cancel]

/-- No candidate lies between `c` and the next one. -/
theorem Stride.candidates_gap : candidates (c + d - 1) = candidates c := by
  obtain ⟨h5, ⟨hmod, rfl⟩ | ⟨hmod, rfl⟩⟩ := h
  · have h1 : ¬ IsCandidate (c + 1) := by unfold IsCandidate; omega
    rw [show c + 2 - 1 = c + 1 by omega, candidates_succ, if_neg h1]
    rfl
  · have h1 : ¬ IsCandidate (c + 1) := by unfold IsCandidate; omega
    have h2 : ¬ IsCandidate (c + 1 + 1) := by unfold IsCandidate; omega
    have h3 : ¬ IsCandidate (c + 1 + 1 + 1) := by unfold IsCandidate; omega
    rw [show c + 4 - 1 = c + 1 + 1 + 1 by omega, candidates_succ, if_neg h3, candidates_succ,
      if_neg h2, candidates_succ, if_neg h1]
    rfl
end

/-- The least factor of a number that S0 and S1 let pass is a candidate. -/
theorem isCandidate_minFac {n : Nat} (h1 : n ≠ 1) (h2 : ¬ 2 ∣ n) (h3 : ¬ 3 ∣ n) :
    IsCandidate n.minFac := by
  have hp := Nat.minFac_prime h1
  have not_dvd {q : Nat} (hq : ¬ q ∣ n) : ¬ q ∣ n.minFac := fun h => hq (h.trans n.minFac_dvd)
  have hodd := not_dvd h2
  have hthree := not_dvd h3
  have htwo := hp.two_le
  unfold IsCandidate
  omega

/-! ### The requests that are left at S2 (R154) -/

/-- The requests from S2 on, where `c` is the next candidate for `n`: three for each candidate up to
the last one, but the last one costs two if it divides `n`, and S2 asks once more if none does. -/
def trialCalls (n c : Nat) : Nat :=
  if n.minFac = n then 3 * (candidates n.sqrt - candidates (c - 1)) + 1
  else 3 * (candidates n.minFac - candidates (c - 1)) - 1

/-- ISPRIME's answer (R150). -/
def primality (n : Nat) : Int := if n.Prime then 1 else 0

theorem primality_of_prime {n : Nat} (h : n.Prime) : primality n = 1 := if_pos h

theorem primality_of_not_prime {n : Nat} (h : ¬ n.Prime) : primality n = 0 := if_neg h

theorem primality_of_dvd {n q : Nat} (hq : q ∣ n) (h1 : q ≠ 1) (hn : q ≠ n) : primality n = 0 :=
  primality_of_not_prime fun hp => (hp.eq_one_or_self_of_dvd q hq).elim h1 hn

section
variable {n c d : Nat} (h : Stride c d) (hmin : c ≤ n.minFac)
include h hmin

theorem prime_of_lt_sq (hsq : n < c * c) : n.Prime := by
  by_contra hp
  have hn : n ≠ 0 := by
    rintro rfl
    exact absurd (h.five_le.trans hmin) (by decide)
  have hle := Nat.minFac_sq_le_self (Nat.pos_of_ne_zero hn) hp
  have hmul := Nat.mul_le_mul hmin hmin
  rw [pow_two] at hle
  omega

theorem trialCalls_of_lt_sq (hsq : n < c * c) : trialCalls n c = 1 := by
  have hsqrt : n.sqrt ≤ c - 1 := Nat.le_pred_of_lt (Nat.sqrt_lt.mpr hsq)
  rw [trialCalls, if_pos (prime_of_lt_sq h hmin hsq).minFac_eq,
    Nat.sub_eq_zero_of_le (candidates_mono hsqrt)]

theorem minFac_eq_of_dvd (hdvd : c ∣ n) : n.minFac = c :=
  (Nat.minFac_le_of_dvd (le_trans (by decide) h.five_le) hdvd).antisymm hmin

theorem minFac_ne_self_of_dvd (hsq : c * c ≤ n) (hdvd : c ∣ n) : n.minFac ≠ n := by
  rw [minFac_eq_of_dvd h hmin hdvd]
  have h5 := h.five_le
  have hlarge : 5 * c ≤ c * c := Nat.mul_le_mul_right c h5
  omega

theorem trialCalls_of_dvd (hsq : c * c ≤ n) (hdvd : c ∣ n) : trialCalls n c = 2 := by
  rw [trialCalls, if_neg (minFac_ne_self_of_dvd h hmin hsq hdvd), minFac_eq_of_dvd h hmin hdvd,
    h.candidates_self]
  omega

/-- The least factor is no smaller than the next candidate. -/
theorem next_le_minFac (hcand : IsCandidate n.minFac) (hdvd : ¬ c ∣ n) : c + d ≤ n.minFac :=
  h.le_of_lt hcand (hmin.lt_of_ne fun hc => hdvd (hc ▸ n.minFac_dvd))

/-- A candidate that does not divide `n` costs three requests. -/
theorem trialCalls_of_not_dvd (hcand : IsCandidate n.minFac) (hsq : c * c ≤ n) (hdvd : ¬ c ∣ n) :
    trialCalls n c = 1 + (1 + (1 + trialCalls n (c + d))) := by
  have hself := h.candidates_self
  have hgap := h.candidates_gap
  unfold trialCalls
  split
  · have hsqrt := candidates_mono (Nat.le_sqrt.mpr hsq)
    omega
  · have hnext := h.next.candidates_self
    have hle := candidates_mono (next_le_minFac h hmin hcand hdvd)
    omega
end

/-! ### The steps of R151 -/

/-- From this label and these registers ISPRIME commits the answer `v`, `k` requests later. -/
def IsprimeCommits (l : IsprimeLabel) (w : Work) (k : Nat) (v : Int) : Prop :=
  ∃ w', StepsEndWith (.isprime l) w k ⟨w', .commit v 0 0 false⟩

section
variable {w w' : Work} {l l' : IsprimeLabel} {j k : Nat} {v : Int}

theorem isprimeCommits_last (h : wholeStep (.isprime l) w = (k, ⟨w', .commit v 0 0 false⟩)) :
    IsprimeCommits l w k v := ⟨w', .last h rfl⟩

theorem isprimeCommits_cons (h : wholeStep (.isprime l) w = (j, ⟨w', .goto (.isprime l')⟩))
    (hrest : IsprimeCommits l' w' k v) : IsprimeCommits l w (j + k) v := by
  obtain ⟨w'', hrest⟩ := hrest
  exact ⟨w'', .cons h hrest⟩

theorem wholeStep_isprime_s0 (w : Work) : wholeStep (.isprime .s0) w = (0, isprimeStart .s0 w) := by
  simp only [wholeStep, startStep, isprimeStart]
  split_ifs <;> rfl

theorem wholeStep_isprime_s1 (w : Work) :
    wholeStep (.isprime .s1) w = (1, isprimeResume .s1 (w.n % 3) w) := by
  rw [← primMod_of_pos w.n (by decide : (0 : Int) < 3)]; rfl

theorem wholeStep_isprime_s2 (w : Work) :
    wholeStep (.isprime .s2) w = (1, isprimeResume .s2 (w.c * w.c) w) := rfl

theorem wholeStep_isprime_s3 (hc : 0 < w.c) :
    wholeStep (.isprime .s3) w = (1, isprimeResume .s3 (w.n % w.c) w) := by
  rw [← primMod_of_pos w.n hc]; rfl

theorem isprime_s0_goes (h1 : 3 < w.n) (h2 : w.n % 2 ≠ 0) (hrest : IsprimeCommits .s1 w k v) :
    IsprimeCommits .s0 w (0 + k) v := by
  refine isprimeCommits_cons ?_ hrest
  rw [wholeStep_isprime_s0, isprimeStart, if_neg (by omega), if_neg (by omega), bit0, if_neg h2]

theorem isprime_s1_commits (h : w.n % 3 = 0) : IsprimeCommits .s1 w 1 0 :=
  isprimeCommits_last (by rw [wholeStep_isprime_s1, isprimeResume, if_pos h])

theorem isprime_s1_goes (h : w.n % 3 ≠ 0)
    (hrest : IsprimeCommits .s2 { w with rem := w.n % 3, c := 5, d := 2 } k v) :
    IsprimeCommits .s1 w (1 + k) v :=
  isprimeCommits_cons (by rw [wholeStep_isprime_s1, isprimeResume, if_neg h]) hrest

theorem isprime_s2_commits (h : w.n < w.c * w.c) : IsprimeCommits .s2 w 1 1 :=
  isprimeCommits_last (by rw [wholeStep_isprime_s2, isprimeResume, if_pos h])

theorem isprime_s2_goes (h : w.c * w.c ≤ w.n)
    (hrest : IsprimeCommits .s3 { w with t := w.c * w.c } k v) :
    IsprimeCommits .s2 w (1 + k) v :=
  isprimeCommits_cons (by rw [wholeStep_isprime_s2, isprimeResume, if_neg h.not_gt]) hrest

theorem isprime_s3_commits (hc : 0 < w.c) (h : w.n % w.c = 0) : IsprimeCommits .s3 w 1 0 :=
  isprimeCommits_last (by rw [wholeStep_isprime_s3 hc, isprimeResume, if_pos h])

theorem isprime_s3_goes (hc : 0 < w.c) (h : w.n % w.c ≠ 0)
    (hrest : IsprimeCommits .s4 { w with rem := w.n % w.c } k v) :
    IsprimeCommits .s3 w (1 + k) v :=
  isprimeCommits_cons (by rw [wholeStep_isprime_s3 hc, isprimeResume, if_neg h]) hrest

theorem isprime_s4_goes (hrest : IsprimeCommits .s2 { w with c := w.c + w.d, d := 6 - w.d } k v) :
    IsprimeCommits .s4 w (1 + k) v :=
  isprimeCommits_cons rfl hrest
end

/-! ### The loop -/

/-- At S2: the operand `n`, its next candidate `c`, the way `d` to the one after it; no factor of `n`
is less than `c`. -/
structure TrialAt (w : Work) (n c d : Nat) : Prop where
  n_eq   : w.n = n
  c_eq   : w.c = c
  d_eq   : w.d = d
  stride : Stride c d
  least  : c ≤ n.minFac

/-- A candidate that does not divide the operand hands on to the next one. -/
theorem TrialAt.next {w : Work} {n c d : Nat} (h : TrialAt w n c d) (hcand : IsCandidate n.minFac)
    (hdvd : ¬ c ∣ n) (t rem : Int) :
    TrialAt { w with t := t, rem := rem, c := w.c + w.d, d := 6 - w.d } n (c + d) (6 - d) where
  n_eq   := h.n_eq
  c_eq   := by simp [h.c_eq, h.d_eq]
  d_eq   := by
    have hgap := h.stride.gap
    have hd := h.d_eq
    simp only
    omega
  stride := h.stride.next
  least  := next_le_minFac h.stride h.least hcand hdvd

/-- From S2 on, ISPRIME decides primality with the requests that R154 counts. -/
theorem TrialAt.commits {w : Work} {n c d : Nat} (h : TrialAt w n c d)
    (hcand : IsCandidate n.minFac) : IsprimeCommits .s2 w (trialCalls n c) (primality n) := by
  induction hm : n - c using Nat.strong_induction_on generalizing w c d with
  | _ m ih =>
    have ⟨hn, hc, _, hstride, hleast⟩ := h
    have h5 := hstride.five_le
    by_cases hsq : n < c * c
    · have hsq' : w.n < w.c * w.c := by rw [hn, hc]; exact_mod_cast hsq
      rw [trialCalls_of_lt_sq hstride hleast hsq,
        primality_of_prime (prime_of_lt_sq hstride hleast hsq)]
      exact isprime_s2_commits hsq'
    · have hle : c * c ≤ n := Nat.le_of_not_lt hsq
      have hle' : w.c * w.c ≤ w.n := by rw [hn, hc]; exact_mod_cast hle
      have hpos : 0 < w.c := by omega
      have hrem : w.n % w.c = 0 ↔ c ∣ n := by
        rw [hn, hc, ← Int.dvd_iff_emod_eq_zero, Int.natCast_dvd_natCast]
      by_cases hdvd : c ∣ n
      · have hne := minFac_ne_self_of_dvd hstride hleast hle hdvd
        rw [trialCalls_of_dvd hstride hleast hle hdvd,
          primality_of_not_prime fun hp => hne hp.minFac_eq]
        exact isprime_s2_goes hle' (isprime_s3_commits hpos (hrem.mpr hdvd))
      · rw [trialCalls_of_not_dvd hstride hleast hcand hle hdvd]
        have hlt : n - (c + d) < m := by
          have hlarge : 5 * c ≤ c * c := Nat.mul_le_mul_right c h5
          have hgap := hstride.gap
          omega
        exact isprime_s2_goes hle' <| isprime_s3_goes hpos (hrem.not.mpr hdvd) <| isprime_s4_goes <|
          ih _ hlt (h.next hcand hdvd _ _) rfl

/-! ### The command -/

/-- What S0 decides without a request (R150). -/
theorem isprimeStart_s0_commit {w : Work} (h : w.n ≤ 3 ∨ w.n % 2 = 0) :
    isprimeStart .s0 w = ⟨w, .commit (primality w.n.toNat) 0 0 false⟩ := by
  by_cases hone : w.n ≤ 1
  · have hnot : ¬ w.n.toNat.Prime := fun hp => by have := hp.two_le; omega
    rw [isprimeStart, if_pos hone, primality_of_not_prime hnot]
  by_cases hsmall : w.n = 2 ∨ w.n = 3
  · have hp : w.n.toNat.Prime := by
      obtain h2 | h3 := hsmall
      · rw [h2]; exact Nat.prime_two
      · rw [h3]; exact Nat.prime_three
    rw [isprimeStart, if_neg hone, if_pos hsmall, primality_of_prime hp]
  · have heven : w.n % 2 = 0 := by omega
    have hzero : primality w.n.toNat = 0 :=
      primality_of_dvd (q := 2) (by omega) (by decide) (by omega)
    rw [isprimeStart, if_neg hone, if_neg hsmall, bit0, if_pos heven, hzero]

/-- R154 at the first candidate: one request for S1, and those of the loop. -/
theorem isprimeCalls_of_loop {n : Nat} (h3 : 3 < n) (hodd : ¬ 2 ∣ n) (hthree : ¬ 3 ∣ n) :
    isprimeCalls n = 1 + trialCalls n 5 := by
  have hcand := isCandidate_minFac (by omega) hodd hthree
  have hfour : candidates 4 = 0 := by decide
  have hfive : candidates 5 = 1 := by decide
  have hmono : candidates 5 ≤ candidates n.minFac := candidates_mono hcand.1
  rw [isprimeCalls, if_neg (by omega), if_neg (by omega), Int.toNat_natCast, trialCalls, hfour]
  split <;> omega

/-- ISPRIME decides primality, with the requests that R154 counts. -/
theorem isprime_commits (w : Work) :
    IsprimeCommits .s0 w (isprimeCalls w.n) (primality w.n.toNat) := by
  by_cases h0 : w.n ≤ 3 ∨ w.n % 2 = 0
  · rw [isprimeCalls, if_pos h0]
    exact isprimeCommits_last (by rw [wholeStep_isprime_s0, isprimeStart_s0_commit h0])
  · obtain ⟨hbig, hodd⟩ := not_or.mp h0
    by_cases h3 : w.n % 3 = 0
    · rw [isprimeCalls, if_neg h0, if_pos h3,
        primality_of_dvd (q := 3) (by omega) (by decide) (by omega)]
      exact isprime_s0_goes (not_le.mp hbig) hodd (isprime_s1_commits h3)
    · obtain ⟨n, hn⟩ : ∃ n : Nat, w.n = n := ⟨w.n.toNat, by omega⟩
      have hcand : IsCandidate n.minFac := isCandidate_minFac (by omega) (by omega) (by omega)
      rw [hn, Int.toNat_natCast, isprimeCalls_of_loop (by omega) (by omega) (by omega),
        ← Nat.zero_add (1 + _)]
      exact isprime_s0_goes (not_le.mp hbig) hodd <| isprime_s1_goes h3 <|
        TrialAt.commits ⟨hn, rfl, rfl, ⟨le_rfl, .inl ⟨rfl, rfl⟩⟩, hcand.1⟩ hcand

theorem fitsW_of_bit {p : Params} (hp : p.Wf) {v : Int} (hv : v = 0 ∨ v = 1) :
    fitsW p.w v = true := by
  have hpow := five_le_pow hp
  rw [fitsW_iff]
  omega

/-- ISPRIME completes with its answer (R150, R154). -/
theorem Ready.isprime_completes {s : State} (h : Ready s) :
    ∃ w, EndsWithCalls (isprimeCalls (s.operand .opa)) (s.accept .isprime)
      (s.completed .isprime w (primality (s.operand .opa).toNat) 0 0 false) := by
  obtain ⟨w, hsteps⟩ := isprime_commits (s.snapshot .isprime)
  have hzero := fitsW_of_bit h.inv.params (.inl rfl)
  have hanswer : primality (s.operand .opa).toNat = 0 ∨ primality (s.operand .opa).toNat = 1 :=
    (ite_eq_or_eq _ _ _).symm
  exact ⟨w, h.completes hsteps (fitsW_of_bit h.inv.params hanswer) hzero hzero⟩

/-- Settles O37: the answer that ISPRIME completes with is 1 exactly for a prime. -/
theorem isprimeDecidesPrimality : Obligations.IsprimeDecidesPrimality := by
  intro s h
  obtain ⟨w, n, hrun, -⟩ := h.isprime_completes
  refine ⟨s.accept .isprime, n, w, primality (s.operand .opa).toNat,
    exec_command_of_idle .isprime h.idle, hrun, ?_⟩
  by_cases hp : (s.operand .opa).toNat.Prime
  · exact .inl ⟨primality_of_prime hp, hp⟩
  · exact .inr ⟨primality_of_not_prime hp, hp⟩

/-- Settles O44: the same run, with its requests counted. -/
theorem isprimeTransactionCount : Obligations.IsprimeTransactionCount := by
  intro s h
  obtain ⟨w, n, hrun, hcalls⟩ := h.isprime_completes
  exact ⟨s.accept .isprime, _, n, exec_command_of_idle .isprime h.idle, hrun, hcalls⟩

end Sys2Proof.Machine
end

section
/-! A chain of whole steps that comes to a later label of its command, and what the engine's run makes
of it; commands that end with an error. -/

namespace Sys2Proof.Machine

/-! ### Chains of whole steps -/

/-- From this label and these registers the steps come to the label `l'` with the registers `w'`, `k`
requests later. -/
inductive StepsTo : StepLabel → Work → (k : Nat) → (l' : StepLabel) → (w' : Work) → Prop where
  | refl (l : StepLabel) (w : Work) : StepsTo l w 0 l w
  | cons {l l' l'' : StepLabel} {w w' w'' : Work} {j k : Nat}
      (h : wholeStep l w = (j, ⟨w', .goto l'⟩)) (hrest : StepsTo l' w' k l'' w'') :
      StepsTo l w (j + k) l'' w''

section
variable {l l' l'' : StepLabel} {w w' w'' : Work} {j k : Nat} {mv : Move}

theorem StepsTo.trans (h : StepsTo l w j l' w') (h' : StepsTo l' w' k l'' w'') :
    StepsTo l w (j + k) l'' w'' := by
  induction h with
  | refl => simpa using h'
  | cons hw _ ih => simpa [Nat.add_assoc] using StepsTo.cons hw (ih h')

theorem StepsTo.endWith (h : StepsTo l w j l' w') (h' : StepsEndWith l' w' k mv) :
    StepsEndWith l w (j + k) mv := by
  induction h with
  | refl => simpa using h'
  | cons hw _ ih => simpa [Nat.add_assoc] using StepsEndWith.cons hw (ih h')
end

/-! ### The engine's runs -/

theorem Reaches.trans {m n : Nat} {s t u : State} (h : Reaches m s t) (h' : Reaches n t u) :
    Reaches (m + n) s u := by
  induction n generalizing t m with
  | zero =>
    obtain rfl : t = u := h'
    exact h
  | succ n ih =>
    obtain ⟨t', ht, h'⟩ := h'
    rw [Nat.add_comm n, ← Nat.add_assoc]
    exact ih (h.snoc ht) h'

section
variable {s : State} {l l' : StepLabel} {w w' : Work} {j k : Nat} {mv : Move}

theorem EngineRun.reaches_cons (h : EngineRun s) {t u : State} (hm : EngineMove s t)
    (hr : t.phase.running = true) (ht : EngineRun t → ∃ n, Reaches n t u) : ∃ n, Reaches n s u := by
  have hs : step s = .next t := h.step_iff.mpr hm
  obtain ⟨n, hn⟩ := ht (h.next hs hr)
  exact ⟨n + 1, t, hs, hn⟩

/-- A step with a CALL is four turns of the engine (R33, R107, log 8). -/
theorem EngineRun.reaches_call (h : EngineRun s) (hp : s.phase = .run l) (hx : s.xpend = none)
    {r : Request} (hs : startStep l s.work = ⟨s.work, .call r.op r.x r.y⟩) :
    ∃ n, Reaches n s (s.applyMove (resumeStep l r.result s.work)) := by
  have hv := inv_xrsp_eq_none h.inv hx
  have hrequest : EngineMove s { s with xpend := some r, xacc := false } := by
    have hmove := EngineMove.start hp hx hv
    rwa [hs] at hmove
  have htake := EngineMove.resume
    (s := State.respond (State.acceptRequest { s with xpend := some r, xacc := false }) r.result)
    hp rfl
  rw [takeResponse_of_request h.inv hx] at htake
  exact h.reaches_cons hrequest h.running fun h₁ =>
    h₁.reaches_cons (.handshake rfl hv rfl) h.running fun h₂ =>
    h₂.reaches_cons (.answer rfl hv rfl) h.running fun h₃ =>
    ⟨1, _, h₃.step_iff.mpr htake, rfl⟩

/-- The engine takes a whole step. -/
theorem EngineRun.reaches_wholeStep (h : EngineRun s) (hp : s.phase = .run l)
    (hx : s.xpend = none) (hw : wholeStep l s.work = (j, mv)) :
    ∃ n, Reaches n s (s.applyMove mv) := by
  obtain ⟨r, hs, hr⟩ | ⟨-, hr⟩ := wholeStep_cases l s.work <;> cases hr.symm.trans hw
  · exact h.reaches_call hp hx hs
  · have hmove := EngineMove.start hp hx (inv_xrsp_eq_none h.inv hx)
    exact ⟨1, _, h.step_iff.mpr hmove, rfl⟩

/-- The engine's run comes where the chain of the whole steps does. -/
theorem StepsTo.reaches (hsteps : StepsTo l w k l' w') (h : EngineRun s) (hp : s.phase = .run l)
    (hx : s.xpend = none) (hwork : s.work = w) :
    ∃ n, Reaches n s (s.applyMove ⟨w', .goto l'⟩) := by
  induction hsteps generalizing s with
  | refl l w =>
    refine ⟨0, ?_⟩
    subst hwork
    cases s
    cases hp
    rfl
  | cons hw _ ih =>
    obtain ⟨m, hm⟩ := h.reaches_wholeStep hp hx (hwork ▸ hw)
    have hi := hm.invariant inv_step h.inv
    obtain ⟨n, hn⟩ := ih (s := s.applyMove _) ⟨hi, rfl, h.sched⟩ rfl hx rfl
    exact ⟨m + n, hm.trans hn⟩
end

/-! ### Errors -/

/-- A command whose steps raise an error completes with it and writes no result (R127). -/
theorem Ready.fails {s : State} (h : Ready s) {c : Command} {k : Nat} {w : Work} {e : ErrCode}
    (hsteps : StepsEndWith (firstStep c) (s.snapshot c) k ⟨w, .raise e⟩) :
    EndsWithCalls k (s.accept c) (s.failed c w e) := by
  have hend := hsteps.endsWithCalls (h.engineRun c) rfl h.port.1 rfl
  have hraise : (s.accept c).applyMove ⟨w, .raise e⟩ = s.failed c w e := by
    rw [State.failed, h.idle]
    rfl
  rwa [hraise] at hend

theorem EndsWithCalls.no_request {s t : State} (h : EndsWithCalls 0 s t) :
    ∃ n, RunsTo n s t ∧ portTrace n s = [] := by
  obtain ⟨n, hrun, hk⟩ := h
  exact ⟨n, hrun, List.length_eq_zero_iff.mp hk⟩

end Sys2Proof.Machine
end

section
/-! The reference definition of the extended Euclidean algorithm (R171): it has a triple for every
modulus that is not negative, a Bézout triple with the greatest common divisor, which fits W bits. -/

namespace Sys2Proof.Machine

/-- The recursion reaches a modulus of 0 (R171, R176). -/
theorem egcdRef_exists (a : Int) {m : Int} (hm : 0 ≤ m) : ∃ g x y L, EgcdRef a m g x y L := by
  induction h : m.toNat using Nat.strong_induction_on generalizing a m with
  | _ k ih =>
    obtain rfl | hpos := hm.eq_or_lt
    · exact ⟨_, _, _, _, .base a⟩
    · have hlow := Int.fmod_nonneg_of_pos a hpos
      have hlt := Int.fmod_lt_of_pos a hpos
      obtain ⟨g, x, y, L, hrec⟩ := ih _ (by omega) m hlow rfl
      exact ⟨_, _, _, _, .recurse hpos hrec⟩

section
variable {a m g x y : Int} {L : Nat}

theorem EgcdRef.bezout (h : EgcdRef a m g x y L) : a * x + m * y = g := by
  induction h with
  | base a => ring
  | @recurse a b g x y L hb h ih =>
    rw [Int.fmod_def] at ih
    linear_combination ih

theorem EgcdRef.natAbs_eq_gcd (h : EgcdRef a m g x y L) : g.natAbs = Int.gcd a m := by
  induction h with
  | base a => rw [Int.gcd_zero_right]
  | @recurse a b g x y L hb h ih =>
    rw [ih, Int.fmod_eq_emod_of_nonneg _ hb.le, Int.gcd_comm, Int.gcd_emod]

theorem EgcdRef.nonneg (h : EgcdRef a m g x y L) (ha : 0 ≤ a) : 0 ≤ g := by
  induction h with
  | base a => exact ha
  | recurse hb h ih => exact ih hb.le

theorem EgcdRef.eq_gcd (h : EgcdRef a m g x y L) (hm : 0 < m) : g = Int.gcd a m := by
  have hg : 0 ≤ g := by
    cases h with
    | base => exact absurd hm (lt_irrefl 0)
    | recurse hb h => exact h.nonneg hb.le
  rw [← h.natAbs_eq_gcd, Int.natAbs_of_nonneg hg]

/-- Where the recursion stops at once, the cofactors are 1 and 0. -/
theorem EgcdRef.of_zero (h : EgcdRef a 0 g x y L) : g = a ∧ x = 1 ∧ y = 0 := by
  cases h with
  | base => exact ⟨rfl, rfl, rfl⟩
  | recurse hb => exact absurd hb (lt_irrefl 0)

/-- The cofactors are at most half of the other operand; for the second one the first operand has to
be the larger. -/
theorem EgcdRef.cofactors_le_half (h : EgcdRef a m g x y L) (hm : 0 < m) :
    2 * |x| ≤ m ∧ (m < a → 2 * |y| ≤ a) := by
  induction h with
  | base => exact absurd hm (lt_irrefl 0)
  | @recurse a b g x y L hb h ih =>
    have hlow := Int.fmod_nonneg_of_pos a hb
    have hlt := Int.fmod_lt_of_pos a hb
    obtain hzero | hpos := hlow.eq_or_lt
    · rw [← hzero] at h
      obtain ⟨-, rfl, rfl⟩ := h.of_zero
      rw [abs_zero, mul_zero, mul_zero, sub_zero, abs_one]
      omega
    · obtain ⟨hx, hy⟩ := ih hpos
      have hy : 2 * |y| ≤ b := hy hlt
      refine ⟨hy, fun hab => ?_⟩
      have hq : 0 ≤ Int.fdiv a b := Int.fdiv_nonneg (by omega) hb.le
      calc 2 * |x - Int.fdiv a b * y| ≤ 2 * (|x| + |Int.fdiv a b * y|) := by
            linarith [abs_sub x (Int.fdiv a b * y)]
        _ = 2 * |x| + Int.fdiv a b * (2 * |y|) := by rw [abs_mul, abs_of_nonneg hq]; ring
        _ ≤ Int.fmod a b + Int.fdiv a b * b := add_le_add hx (mul_le_mul_of_nonneg_left hy hq)
        _ = a := by rw [Int.fmod_def]; ring

theorem EgcdRef.abs_le (h : EgcdRef a m g x y L) (hm : 0 < m) : |g| ≤ m := by
  rw [h.eq_gcd hm, Nat.abs_cast]
  exact Int.gcd_le_right _ hm

/-- The second cofactor for a first operand of any size, by the Bézout equation. -/
theorem EgcdRef.two_mul_abs_y_le (h : EgcdRef a m g x y L) (hm : 0 < m) :
    2 * |y| ≤ |a| + 2 := by
  obtain ⟨hx, -⟩ := h.cofactors_le_half hm
  have hg := h.abs_le hm
  have hmy : m * y = g - a * x := by linear_combination h.bezout
  refine le_of_mul_le_mul_left ?_ hm
  calc m * (2 * |y|) = 2 * |g - a * x| := by rw [← hmy, abs_mul, abs_of_pos hm]; ring
    _ ≤ 2 * (|g| + |a * x|) := by linarith [abs_sub g (a * x)]
    _ = 2 * |g| + |a| * (2 * |x|) := by rw [abs_mul]; ring
    _ ≤ 2 * m + |a| * m := add_le_add (by linarith) (mul_le_mul_of_nonneg_left hx (abs_nonneg a))
    _ = m * (|a| + 2) := by ring
end

theorem fitsW_of_abs_lt {w : Nat} {v : Int} (h : |v| < 2 ^ (w - 1)) : fitsW w v = true := by
  obtain ⟨hlow, hhigh⟩ := abs_lt.mp h
  exact (fitsW_iff w v).mpr ⟨hlow.le, Int.le_sub_one_of_lt hhigh⟩

theorem fitsW_operand (s : State) (o : OpReg) : fitsW s.params.w (s.operand o) = true := by
  obtain ⟨habs, hlt⟩ := operand_range s o
  exact (fitsW_iff _ _).mpr ⟨(abs_le.mp habs).1, Int.le_sub_one_of_lt hlt⟩

/-- The triple of two operands fits W bits, so no commit of EGCD fails its range check (R128). -/
theorem EgcdRef.fitsW {s : State} (hp : s.params.Wf) {g x y : Int} {L : Nat}
    (h : EgcdRef (s.operand .opa) (s.operand .opb) g x y L) (hm : 0 ≤ s.operand .opb) :
    fitsW s.params.w g = true ∧ fitsW s.params.w x = true ∧ fitsW s.params.w y = true := by
  obtain ⟨ha, -⟩ := operand_range s .opa
  obtain ⟨-, hmM⟩ := operand_range s .opb
  have hM := five_le_pow hp
  obtain hzero | hpos := hm.eq_or_lt
  · rw [← hzero] at h
    obtain ⟨rfl, rfl, rfl⟩ := h.of_zero
    exact ⟨fitsW_operand s .opa, fitsW_of_bit hp (.inr rfl), fitsW_of_bit hp (.inl rfl)⟩
  · have hg := h.abs_le hpos
    obtain ⟨hx, -⟩ := h.cofactors_le_half hpos
    have hy := h.two_mul_abs_y_le hpos
    exact ⟨fitsW_of_abs_lt (by omega), fitsW_of_abs_lt (by omega), fitsW_of_abs_lt (by omega)⟩

end Sys2Proof.Machine
end

section
/-! EGCD and MODINV (O38, O39, O40, O43, O45): a pass of EGCD_CORE is a step of the recursion. -/

namespace Sys2Proof.Machine

/-! ### A pass of EGCD_CORE -/

/-- The commands whose steps contain the loop, by its labels, and where they go on when it returns
(R172, R173). -/
inductive CoreIn : (inCore : CoreLabel → StepLabel) → (ret : StepLabel) → Prop where
  | egcd   : CoreIn inG1 (.egcd .g2)
  | modinv : CoreIn inI1 (.modinv .i2)

/-- The registers after a pass that begins at E1. -/
def Work.afterPass (w : Work) : Work :=
  { w with
    q   := primDiv w.r0 w.r1
    rem := primMod w.r0 w.r1
    u   := w.t0 - primDiv w.r0 w.r1 * w.t1
    r0  := w.r1
    r1  := primMod w.r0 w.r1
    s0  := w.s1
    s1  := w.s0 - primDiv w.r0 w.r1 * w.s1
    t0  := w.t1
    t1  := w.t0 - primDiv w.r0 w.r1 * w.t1 }

theorem coreStart_e1_ret {w : Work} (h : w.r1 = 0) : coreStart .e1 w = (w, .ret) := if_pos h

theorem coreStart_e1_goto {w : Work} (h : w.r1 ≠ 0) : coreStart .e1 w = (w, .goto .e2) := if_neg h

section
variable {inCore : CoreLabel → StepLabel} {ret : StepLabel} (hin : CoreIn inCore ret)
  {k k' : CoreLabel} {w w' : Work} {r : Request} {a b g x y : Int} {L : Nat}
include hin

theorem CoreIn.wholeStep_goto (hs : coreStart k w = (w', .goto k')) :
    wholeStep (inCore k) w = (0, ⟨w', .goto (inCore k')⟩) := by
  cases hin <;> simp [wholeStep, startStep, inG1, inI1, egcdStart, modinvStart, hs, liftCore]

theorem CoreIn.wholeStep_ret (hs : coreStart k w = (w', .ret)) :
    wholeStep (inCore k) w = (0, ⟨w', .goto ret⟩) := by
  cases hin <;> simp [wholeStep, startStep, inG1, inI1, egcdStart, modinvStart, hs, liftCore]

theorem CoreIn.wholeStep_call (hr : CoreRequest w k r)
    (hs : coreResume k r.result w = (w', .goto k')) :
    wholeStep (inCore k) w = (1, ⟨w', .goto (inCore k')⟩) := by
  cases hin <;> cases hr <;> cases hs <;> rfl

/-- E2 and E3: the quotient and the remainder. -/
theorem CoreIn.divides (w : Work) : StepsTo (inCore .e2) w 2 (inCore .e4)
    { w with q := primDiv w.r0 w.r1, rem := primMod w.r0 w.r1 } :=
  .cons (hin.wholeStep_call .e2 rfl) <| .cons (hin.wholeStep_call .e3 rfl) <| .refl _ _

/-- E4 and E5: the next cofactor of `a`. -/
theorem CoreIn.nextS (w : Work) : StepsTo (inCore .e4) w 2 (inCore .e6)
    { w with u := w.s0 - w.q * w.s1, s0 := w.s1, s1 := w.s0 - w.q * w.s1 } :=
  .cons (hin.wholeStep_call .e4 rfl) <| .cons (hin.wholeStep_call .e5 rfl) <| .refl _ _

/-- E6 and E7: the next cofactor of `m`, and the shift of the remainders. -/
theorem CoreIn.nextT (w : Work) : StepsTo (inCore .e6) w 2 (inCore .e1)
    { w with
      u := w.t0 - w.q * w.t1, t0 := w.t1, t1 := w.t0 - w.q * w.t1, r0 := w.r1, r1 := w.rem } :=
  .cons (hin.wholeStep_call .e6 rfl) <| .cons (hin.wholeStep_call .e7 rfl) <| .refl _ _

/-- A pass issues six requests (R176). -/
theorem CoreIn.pass (h : w.r1 ≠ 0) : StepsTo (inCore .e1) w 6 (inCore .e1) w.afterPass :=
  .cons (hin.wholeStep_goto (coreStart_e1_goto h)) <|
    (hin.divides _).trans <| (hin.nextS _).trans <| hin.nextT _

/-- From E1 on the loop follows the recursion: the cofactors of the two remainders combine with those
that the recursion returns for them. -/
theorem CoreIn.passes (href : EgcdRef a b g x y L) (ha : w.r0 = a) (hb : w.r1 = b) :
    ∃ w', StepsTo (inCore .e1) w (6 * L) ret w' ∧ w'.m = w.m ∧
      w'.r0 = g ∧ w'.s0 = w.s0 * x + w.s1 * y ∧ w'.t0 = w.t0 * x + w.t1 * y := by
  induction href generalizing w with
  | base a =>
    exact ⟨w, .cons (hin.wholeStep_ret (coreStart_e1_ret hb)) (.refl _ _), rfl, ha, by ring, by ring⟩
  | @recurse a b g x y L hpos _ ih =>
    have hq : primDiv w.r0 w.r1 = Int.fdiv a b := by rw [ha, hb, primDiv, if_pos hpos]
    have hrem : primMod w.r0 w.r1 = Int.fmod a b := by rw [ha, hb, primMod, if_pos hpos]
    obtain ⟨w', hsteps, hm, hg, hs, ht⟩ := ih (w := w.afterPass) hb hrem
    have hpass := hin.pass (w := w) (hb ▸ hpos.ne')
    have hall := hpass.trans hsteps
    rw [Nat.add_comm, ← Nat.mul_succ] at hall
    refine ⟨w', hall, hm, hg, ?_, ?_⟩
    · rw [hs, Work.afterPass, hq]; ring
    · rw [ht, Work.afterPass, hq]; ring

/-- EGCD_CORE returns the triple of the recursion, with six requests for each recursive call (R171,
R176). -/
theorem CoreIn.core (href : EgcdRef w.a w.m g x y L) :
    ∃ w', StepsTo (inCore .e0) w (6 * L) ret w' ∧ w'.m = w.m ∧
      w'.r0 = g ∧ w'.s0 = x ∧ w'.t0 = y := by
  obtain ⟨w', hsteps, hm, hg, hs, ht⟩ := hin.passes href
    (w := { w with r0 := w.a, r1 := w.m, s0 := 1, s1 := 0, t0 := 0, t1 := 1 }) rfl rfl
  have he0 := hin.wholeStep_goto (k := .e0) (w := w) rfl
  have hall := StepsTo.cons he0 hsteps
  exact ⟨w', by simpa using hall, hm, hg, by simpa using hs, by simpa using ht⟩
end

/-! ### EGCD and MODINV as chains of steps -/

section
variable {w : Work} {g x y : Int} {L : Nat}

theorem egcd_commits (hm : 0 ≤ w.m) (href : EgcdRef w.a w.m g x y L) :
    ∃ w', StepsEndWith (.egcd .g0) w (6 * L) ⟨w', .commit g x y false⟩ := by
  have hg0 : wholeStep (.egcd .g0) w = (0, ⟨w, .goto (inG1 .e0)⟩) := by
    simp [wholeStep, startStep, egcdStart, hm.not_gt]
  obtain ⟨w', hsteps, -, rfl, rfl, rfl⟩ := CoreIn.egcd.core href
  have hall := (StepsTo.cons hg0 hsteps).endWith (.last rfl rfl)
  exact ⟨w', by simpa using hall⟩

theorem modinv_reaches_i2 (hm : 0 < w.m) (href : EgcdRef w.a w.m g x y L) :
    ∃ w', StepsTo (.modinv .i0) w (6 * L) (.modinv .i2) w' ∧ w'.m = w.m ∧ w'.r0 = g ∧ w'.s0 = x := by
  have hi0 : wholeStep (.modinv .i0) w = (0, ⟨w, .goto (inI1 .e0)⟩) := by
    simp [wholeStep, startStep, modinvStart, hm.not_ge]
  obtain ⟨w', hsteps, hm', hg, hx, -⟩ := CoreIn.modinv.core href
  exact ⟨w', by simpa using StepsTo.cons hi0 hsteps, hm', hg, hx⟩

/-- Without an inverse I2 ends the command (R175). -/
theorem modinv_commits_none (hm : 0 < w.m) (href : EgcdRef w.a w.m g x y L) (hg : g ≠ 1) :
    ∃ w', StepsEndWith (.modinv .i0) w (6 * L) ⟨w', .commit 0 0 0 true⟩ := by
  obtain ⟨w', hsteps, -, hr0, -⟩ := modinv_reaches_i2 hm href
  have hi2 : wholeStep (.modinv .i2) w' = (0, ⟨w', .commit 0 0 0 true⟩) := by
    simp [wholeStep, startStep, modinvStart, hr0, hg]
  exact ⟨w', hsteps.endWith (.last hi2 rfl)⟩

theorem wholeStep_modinv_i3 (w : Work) : wholeStep (.modinv .i3) w =
    (1, ⟨{ w with u := primMod w.s0 w.m }, .goto (.modinv .i4)⟩) := rfl

theorem wholeStep_modinv_i4 (w : Work) : wholeStep (.modinv .i4) w =
    (1, ⟨{ w with u := primAdd w.u w.m }, .goto (.modinv .i5)⟩) := rfl

theorem wholeStep_modinv_i5 (w : Work) : wholeStep (.modinv .i5) w =
    (1, ⟨{ w with u := primMod w.u w.m }, .goto (.modinv .i6)⟩) := rfl

theorem wholeStep_modinv_i6 (w : Work) :
    wholeStep (.modinv .i6) w = (0, ⟨w, .commit w.u 0 0 false⟩) := rfl

/-- With an inverse I3 to I5 bring it into range, with three requests (R173, R174). -/
theorem modinv_commits_inverse (hm : 0 < w.m) (href : EgcdRef w.a w.m 1 x y L) :
    ∃ w', StepsEndWith (.modinv .i0) w (6 * L + 3) ⟨w', .commit (x % w.m) 0 0 false⟩ := by
  obtain ⟨w', hsteps, hwm, hr0, rfl⟩ := modinv_reaches_i2 hm href
  have hi2 : wholeStep (.modinv .i2) w' = (0, ⟨w', .goto (.modinv .i3)⟩) := by
    simp [wholeStep, startStep, modinvStart, hr0]
  have hu : primMod (primAdd (primMod w'.s0 w'.m) w'.m) w'.m = w'.s0 % w.m := by
    rw [hwm, primMod_of_pos _ hm, primMod_of_pos _ hm, primAdd, Int.add_emod_right, Int.emod_emod]
  rw [← hu]
  exact ⟨_, hsteps.endWith <| .cons hi2 <| .cons (wholeStep_modinv_i3 _) <|
    .cons (wholeStep_modinv_i4 _) <| .cons (wholeStep_modinv_i5 _) <|
    .last (wholeStep_modinv_i6 _) rfl⟩
end

/-- G0 and I0 raise before any request (R172, R173). -/
theorem egcd_raises {w : Work} (hm : w.m < 0) :
    StepsEndWith (.egcd .g0) w 0 ⟨w, .raise .invalidModulus⟩ :=
  .last (by simp [wholeStep, startStep, egcdStart, hm]) rfl

theorem modinv_raises {w : Work} (hm : w.m ≤ 0) :
    StepsEndWith (.modinv .i0) w 0 ⟨w, .raise .invalidModulus⟩ :=
  .last (by simp [wholeStep, startStep, modinvStart, hm]) rfl

/-! ### The commands -/

section
variable {s : State} (h : Ready s) {g x y : Int} {L : Nat}
include h

/-- EGCD completes with the triple of the recursion (R171, R172, R176). -/
theorem Ready.egcd_completes (hm : 0 ≤ s.operand .opb)
    (href : EgcdRef (s.operand .opa) (s.operand .opb) g x y L) :
    ∃ w, EndsWithCalls (6 * L) (s.accept .egcd) (s.completed .egcd w g x y false) := by
  obtain ⟨w, hsteps⟩ := egcd_commits (w := s.snapshot .egcd) hm href
  obtain ⟨hg, hx, hy⟩ := href.fitsW h.inv.params hm
  exact ⟨w, h.completes hsteps hg hx hy⟩

/-- MODINV without an inverse completes with zeros (R175, R176). -/
theorem Ready.modinv_completes_none (hm : 0 < s.operand .opb)
    (href : EgcdRef (s.operand .opa) (s.operand .opb) g x y L) (hg : g ≠ 1) :
    ∃ w, EndsWithCalls (6 * L) (s.accept .modinv) (s.completed .modinv w 0 0 0 true) := by
  obtain ⟨w, hsteps⟩ := modinv_commits_none (w := s.snapshot .modinv) hm href hg
  have hzero := fitsW_of_bit h.inv.params (.inl rfl)
  exact ⟨w, h.completes hsteps hzero hzero hzero⟩

/-- MODINV with an inverse completes with the cofactor brought into range (R173, R176). -/
theorem Ready.modinv_completes_inverse (hm : 0 < s.operand .opb)
    (href : EgcdRef (s.operand .opa) (s.operand .opb) 1 x y L) :
    ∃ w, EndsWithCalls (6 * L + 3) (s.accept .modinv)
      (s.completed .modinv w (x % s.operand .opb) 0 0 false) := by
  obtain ⟨w, hsteps⟩ := modinv_commits_inverse (w := s.snapshot .modinv) hm href
  have hzero := fitsW_of_bit h.inv.params (.inl rfl)
  obtain ⟨-, hmM⟩ := operand_range s .opb
  have hlow := Int.emod_nonneg x hm.ne'
  have hlt := Int.emod_lt_of_pos x hm
  have hfits : fitsW s.params.w (x % s.operand .opb) = true :=
    fitsW_of_abs_lt (by rw [abs_of_nonneg hlow]; exact hlt.trans hmM)
  exact ⟨w, h.completes hsteps hfits hzero hzero⟩

theorem Ready.egcd_fails (hm : s.operand .opb < 0) :
    ∃ n w, RunsTo n (s.accept .egcd) (s.failed .egcd w .invalidModulus) ∧
      portTrace n (s.accept .egcd) = [] := by
  obtain ⟨n, hrun⟩ := (h.fails (c := .egcd) (egcd_raises hm)).no_request
  exact ⟨n, _, hrun⟩

theorem Ready.modinv_fails (hm : s.operand .opb ≤ 0) :
    ∃ n w, RunsTo n (s.accept .modinv) (s.failed .modinv w .invalidModulus) ∧
      portTrace n (s.accept .modinv) = [] := by
  obtain ⟨n, hrun⟩ := (h.fails (c := .modinv) (modinv_raises hm)).no_request
  exact ⟨n, _, hrun⟩
end

/-! ### The statements -/

theorem CoreIn.xpend_at_e0 {inCore : CoreLabel → StepLabel} {ret : StepLabel}
    (hin : CoreIn inCore ret) {s : State} (h : Inv s) (hp : s.phase = .run (inCore .e0)) :
    s.xpend = none := by
  cases hx : s.xpend with
  | none   => rfl
  | some r =>
    have hcall := congrArg Move.next (h.request _ r hp hx)
    cases hin <;> cases hcall

/-- At E0 the engine runs to the label after the loop, with the triple in the registers of log 20. -/
theorem CoreIn.reaches {inCore : CoreLabel → StepLabel} {ret : StepLabel} (hin : CoreIn inCore ret)
    {s : State} (h : EngineRun s) (hp : s.phase = .run (inCore .e0)) {g x y : Int} {L : Nat}
    (href : EgcdRef s.work.a s.work.m g x y L) :
    ∃ t n, Reaches n s t ∧ t.phase = .run ret ∧ t.work.r0 = g ∧ t.work.s0 = x ∧ t.work.t0 = y := by
  obtain ⟨w, hsteps, -, hg, hs, ht⟩ := hin.core href
  obtain ⟨n, hn⟩ := hsteps.reaches h hp (hin.xpend_at_e0 h.inv hp) rfl
  exact ⟨_, n, hn, rfl, hg, hs, ht⟩

/-- Settles O38: the loop follows the recursion in both commands, and EGCD commits its triple. -/
theorem egcdEqualsTheRecursion : Obligations.EgcdEqualsTheRecursion := by
  refine ⟨fun s inCore ret hplace hi _ hsched hp => ?_, fun s h hm => ?_⟩
  · have hin : CoreIn inCore ret := by
      obtain ⟨rfl, rfl⟩ | ⟨rfl, rfl⟩ := hplace
      · exact .egcd
      · exact .modinv
    have hm : 0 ≤ s.work.m := by
      have hlabel := hi.label _ hp
      cases hin
      · exact hlabel.1
      · exact hlabel.1.le
    obtain ⟨g, x, y, L, href⟩ := egcdRef_exists s.work.a hm
    obtain ⟨t, n, hrun⟩ := hin.reaches ⟨hi, by rw [hp]; rfl, hsched⟩ hp href
    exact ⟨t, n, g, x, y, L, href, hrun⟩
  · obtain ⟨g, x, y, L, href⟩ := egcdRef_exists (s.operand .opa) hm
    obtain ⟨w, n, hrun, -⟩ := h.egcd_completes hm href
    exact ⟨_, n, w, g, x, y, L, exec_command_of_idle .egcd h.idle, href, hrun⟩

/-- Settles O39: the triple that EGCD commits fits, and satisfies the Bézout equation. -/
theorem egcdReturnsABezoutTriple : Obligations.EgcdReturnsABezoutTriple := by
  intro s h hm
  obtain ⟨g, x, y, L, href⟩ := egcdRef_exists (s.operand .opa) hm
  obtain ⟨w, n, hrun, -⟩ := h.egcd_completes hm href
  have hp := h.inv.params
  obtain ⟨hg, hx, hy⟩ := href.fitsW hp hm
  refine ⟨_, _, n, exec_command_of_idle .egcd h.idle, hrun, rfl, ?_, ?_⟩
  · simp only [State.completed, valueOf_wordsOf hp hg, valueOf_wordsOf hp hx, valueOf_wordsOf hp hy]
    exact href.bezout
  · simp only [State.completed, valueOf_wordsOf hp hg]
    split
    · next hzero =>
      rw [hzero] at href
      exact href.of_zero.1
    · next hne => exact href.eq_gcd (hm.lt_of_ne' hne)

/-- Settles O40: the recursion's first cofactor is the inverse where the gcd is 1. -/
theorem modinvReturnsTheInverseOrNone : Obligations.ModinvReturnsTheInverseOrNone := by
  intro s h hm
  obtain ⟨g, x, y, L, href⟩ := egcdRef_exists (s.operand .opa) hm.le
  have hgcd := href.eq_gcd hm
  by_cases hg : g = 1
  · subst hg
    obtain ⟨w, n, hrun, -⟩ := h.modinv_completes_inverse hm href
    refine ⟨_, n, w, _, _, exec_command_of_idle .modinv h.idle, hrun, ?_, nofun, fun _ => ?_⟩
    · simp only [Bool.false_eq_true, false_iff, not_not]
      exact_mod_cast hgcd.symm
    · refine ⟨Int.emod_nonneg x hm.ne', Int.emod_lt_of_pos x hm, ?_⟩
      rw [← href.bezout, Int.add_mul_emod_self_left]
      exact (Int.mod_modEq x _).mul_left _
  · obtain ⟨w, n, hrun, -⟩ := h.modinv_completes_none hm href hg
    refine ⟨_, n, w, _, _, exec_command_of_idle .modinv h.idle, hrun, ?_, fun _ => rfl, nofun⟩
    simp only [true_iff]
    exact_mod_cast hgcd ▸ hg

/-- Settles O43: the first step of each command raises. -/
theorem euclidRejectsBadModuli : Obligations.EuclidRejectsBadModuli := by
  refine fun s h => ⟨fun hm => ?_, fun hm => ?_⟩
  · obtain ⟨n, w, hrun⟩ := h.egcd_fails hm
    exact ⟨_, n, w, exec_command_of_idle .egcd h.idle, hrun⟩
  · obtain ⟨n, w, hrun⟩ := h.modinv_fails hm
    exact ⟨_, n, w, exec_command_of_idle .modinv h.idle, hrun⟩

/-- Settles O45: the same runs, with their requests counted. -/
theorem euclidTransactionCounts : Obligations.EuclidTransactionCounts := by
  intro s h
  have hegcd := exec_command_of_idle .egcd h.idle
  have hmodinv := exec_command_of_idle .modinv h.idle
  refine ⟨fun hm => ?_, fun hm => ?_, fun hm => ?_, fun hm => ?_⟩
  · obtain ⟨g, x, y, L, href⟩ := egcdRef_exists (s.operand .opa) hm
    obtain ⟨w, n, hrun, hcalls⟩ := h.egcd_completes hm href
    exact ⟨_, _, n, g, x, y, L, hegcd, hrun, href, hcalls⟩
  · obtain ⟨g, x, y, L, href⟩ := egcdRef_exists (s.operand .opa) hm.le
    by_cases hg : g = 1
    · subst hg
      obtain ⟨w, n, hrun, hcalls⟩ := h.modinv_completes_inverse hm href
      exact ⟨_, _, n, 1, x, y, L, hmodinv, hrun, href, hcalls⟩
    · obtain ⟨w, n, hrun, hcalls⟩ := h.modinv_completes_none hm href hg
      exact ⟨_, _, n, g, x, y, L, hmodinv, hrun, href, hcalls⟩
  · obtain ⟨n, w, hrun, htrace⟩ := h.egcd_fails hm
    exact ⟨_, _, n, hegcd, hrun, htrace⟩
  · obtain ⟨n, w, hrun, htrace⟩ := h.modinv_fails hm
    exact ⟨_, _, n, hmodinv, hrun, htrace⟩

end Sys2Proof.Machine
end

section
/-! MODPOW (O41, O42, O46): a pass of the loop consumes the lowest bit of the exponent. -/

namespace Sys2Proof.Machine

/-! ### A pass of the loop -/

/-- The registers after P3 and P4. -/
def Work.multiplied (w : Work) : Work :=
  { w with t := w.res * w.b, res := primMod (w.res * w.b) w.m }

/-- The registers after P5 and P6. -/
def Work.squared (w : Work) : Work :=
  { w with t := w.b * w.b, b := primMod (w.b * w.b) w.m, e := halve w.e }

/-- The registers after a pass that begins at P2 with the lowest bit of the exponent. -/
def Work.afterBit (w : Work) : (bit : Bool) → Work
  | false => w.squared
  | true  => w.multiplied.squared

theorem wholeStep_modpow_p0 (w : Work) : wholeStep (.modpow .p0) w = (0, modpowStart .p0 w) := by
  simp only [wholeStep, startStep, modpowStart]
  split_ifs <;> rfl

theorem wholeStep_modpow_p1 (w : Work) : wholeStep (.modpow .p1) w =
    (1, ⟨{ w with b := primMod w.b w.m, res := 1 }, .goto (.modpow .p2)⟩) := rfl

theorem wholeStep_modpow_p2 (w : Work) : wholeStep (.modpow .p2) w = (0, modpowStart .p2 w) := by
  simp only [wholeStep, startStep, modpowStart]
  split_ifs <;> rfl

theorem modpow_multiplies (w : Work) : StepsTo (.modpow .p3) w 2 (.modpow .p5) w.multiplied :=
  .cons (j := 1) rfl <| .cons (j := 1) rfl <| .refl _ _

theorem modpow_squares (w : Work) : StepsTo (.modpow .p5) w 2 (.modpow .p2) w.squared :=
  .cons (j := 1) rfl <| .cons (j := 1) rfl <| .refl _ _

section
variable {w : Work} {bit : Bool} {n : Nat}

theorem bit0_of_bit (he : w.e = Nat.bit bit n) : bit0 w.e = bit.toNat := by
  rw [bit0, he]
  exact_mod_cast Nat.bit_mod_two bit n

theorem halve_of_bit (he : w.e = Nat.bit bit n) : halve w.e = n := by
  rw [halve, he]
  exact_mod_cast Nat.bit_div_two bit n

/-- A pass issues two requests, and two more where the bit is set (R194). -/
theorem modpow_pass (he : w.e = Nat.bit bit n) (hne : w.e ≠ 0) :
    StepsTo (.modpow .p2) w (2 * (1 + bit.toNat)) (.modpow .p2) (w.afterBit bit) := by
  have hbit := bit0_of_bit he
  have hp2 := wholeStep_modpow_p2 w
  rw [modpowStart, if_neg hne, hbit] at hp2
  cases bit with
  | false => simpa [Work.afterBit] using StepsTo.cons hp2 (modpow_squares w)
  | true  =>
    simpa [Work.afterBit] using StepsTo.cons hp2 ((modpow_multiplies w).trans (modpow_squares _))
end

/-! ### The loop -/

/-- A pass keeps the power that is to be computed (R193). -/
theorem afterBit_power (w : Work) (hm : 0 < w.m) (bit : Bool) (n : Nat) :
    (w.afterBit bit).res * (w.afterBit bit).b ^ n % w.m = w.res * w.b ^ Nat.bit bit n % w.m := by
  have hsquare : primMod (w.b * w.b) w.m ^ n ≡ w.b ^ (2 * n) [ZMOD w.m] := by
    rw [primMod_of_pos _ hm, pow_mul, sq]
    exact (Int.mod_modEq _ _).pow n
  cases bit with
  | false => exact hsquare.mul_left w.res
  | true  =>
    have hproduct : primMod (w.res * w.b) w.m ≡ w.res * w.b [ZMOD w.m] := by
      rw [primMod_of_pos _ hm]
      exact Int.mod_modEq _ _
    calc primMod (w.res * w.b) w.m * primMod (w.b * w.b) w.m ^ n % w.m
        = w.res * w.b * w.b ^ (2 * n) % w.m := hproduct.mul hsquare
      _ = w.res * w.b ^ (2 * n + 1) % w.m := by ring_nf

/-- The result stays reduced, so that the commit of P2 is the power itself (R193). -/
theorem afterBit_reduced {w : Work} (hm : 0 < w.m) (hres : w.res % w.m = w.res) (bit : Bool) :
    (w.afterBit bit).res % w.m = (w.afterBit bit).res := by
  cases bit with
  | false => exact hres
  | true  =>
    change primMod (w.res * w.b) w.m % w.m = primMod (w.res * w.b) w.m
    rw [primMod_of_pos _ hm, Int.emod_emod]

/-- The requests of the loop for the exponent `e`: R194 without the request of P1. -/
def powerCalls (e : Nat) : Nat := 2 * (e.size + popcount e)

theorem powerCalls_bit {bit : Bool} {n : Nat} (h : n = 0 → bit = true) :
    powerCalls (Nat.bit bit n) = 2 * (1 + bit.toNat) + powerCalls n := by
  have hsize : (Nat.bit bit n).size = n.size + 1 := Nat.size_bit (Nat.bit_ne_zero_iff.mpr h)
  rw [powerCalls, powerCalls, hsize, popcount, popcount, Nat.bits_append_bit n bit h]
  cases bit <;> simp <;> omega

/-- From P2 on MODPOW multiplies the power into the result, with the requests that R194 counts. -/
theorem modpow_loop_commits (n : Nat) {w : Work} (hm : 0 < w.m) (hres : w.res % w.m = w.res)
    (he : w.e = n) : ∃ w', StepsEndWith (.modpow .p2) w (powerCalls n)
      ⟨w', .commit (w.res * w.b ^ n % w.m) 0 0 false⟩ := by
  induction n using Nat.binaryRec' generalizing w with
  | zero =>
    rw [pow_zero, mul_one, hres]
    have hp2 := wholeStep_modpow_p2 w
    rw [modpowStart, if_pos (by exact_mod_cast he)] at hp2
    exact ⟨w, .last hp2 rfl⟩
  | bit bit n hbit ih =>
    have hne : w.e ≠ 0 := by rw [he]; exact_mod_cast Nat.bit_ne_zero_iff.mpr hbit
    have hhalf : (w.afterBit bit).e = n := by cases bit <;> exact halve_of_bit he
    have hmod : (w.afterBit bit).m = w.m := by cases bit <;> rfl
    obtain ⟨w', hrest⟩ := ih (hmod ▸ hm) (hmod ▸ afterBit_reduced hm hres bit) hhalf
    rw [hmod, afterBit_power w hm] at hrest
    exact ⟨w', powerCalls_bit hbit ▸ (modpow_pass he hne).endWith hrest⟩

/-! ### MODPOW as a chain of steps -/

/-- The number of port transactions of MODPOW with modulus `m` and exponent `e` (R194). -/
def modpowCalls (m e : Int) : Nat := if m ≤ 1 ∨ e < 0 then 0 else 1 + powerCalls e.toNat

section
variable {w : Work}

/-- MODPOW commits the power, which for the modulus 1 needs no request (R190, R191, R195). -/
theorem modpow_commits (hm : 0 < w.m) (he : 0 ≤ w.e) :
    ∃ w', StepsEndWith (.modpow .p0) w (modpowCalls w.m w.e)
      ⟨w', .commit (w.b ^ w.e.toNat % w.m) 0 0 false⟩ := by
  have hp0 := wholeStep_modpow_p0 w
  rw [modpowStart, if_neg hm.not_ge, if_neg he.not_gt] at hp0
  by_cases hone : w.m = 1
  · rw [if_pos hone] at hp0
    rw [modpowCalls, if_pos (.inl hone.le), hone, Int.emod_one]
    exact ⟨w, .last hp0 rfl⟩
  · have hreduced : 1 % w.m = 1 := Int.emod_eq_of_lt zero_le_one (by omega)
    obtain ⟨w', hloop⟩ := modpow_loop_commits w.e.toNat
      (w := { w with b := primMod w.b w.m, res := 1 }) hm hreduced (Int.toNat_of_nonneg he).symm
    rw [if_neg hone] at hp0
    rw [modpowCalls, if_neg (by omega)]
    have hpower : 1 * primMod w.b w.m ^ w.e.toNat % w.m = w.b ^ w.e.toNat % w.m := by
      rw [one_mul, primMod_of_pos _ hm]
      exact (Int.mod_modEq _ _).pow _
    have hall := StepsEndWith.cons hp0 (.cons (wholeStep_modpow_p1 w) hloop)
    rw [hpower, Nat.zero_add] at hall
    exact ⟨w', hall⟩

/-- P0 checks the modulus before the exponent (R216). -/
theorem modpow_raises_invalidModulus (hm : w.m ≤ 0) :
    StepsEndWith (.modpow .p0) w 0 ⟨w, .raise .invalidModulus⟩ :=
  .last (by rw [wholeStep_modpow_p0, modpowStart, if_pos hm]) rfl

theorem modpow_raises_negativeExponent (hm : 0 < w.m) (he : w.e < 0) :
    StepsEndWith (.modpow .p0) w 0 ⟨w, .raise .negativeExponent⟩ :=
  .last (by rw [wholeStep_modpow_p0, modpowStart, if_neg hm.not_ge, if_pos he]) rfl
end

/-! ### The command -/

/-- A remainder by an operand fits W bits (R128). -/
theorem fitsW_emod_operand (s : State) {o : OpReg} (h : 0 < s.operand o) (x : Int) :
    fitsW s.params.w (x % s.operand o) = true := by
  obtain ⟨-, hrange⟩ := operand_range s o
  have hlt := (Int.emod_lt_of_pos x h).trans hrange
  exact fitsW_of_abs_lt (by rwa [abs_of_nonneg (Int.emod_nonneg x h.ne')])

section
variable {s : State} (h : Ready s)
include h

/-- MODPOW completes with the power (R190, R194). -/
theorem Ready.modpow_completes (hm : 0 < s.operand .opc) (he : 0 ≤ s.operand .opb) :
    ∃ w, EndsWithCalls (modpowCalls (s.operand .opc) (s.operand .opb)) (s.accept .modpow)
      (s.completed .modpow w
        (s.operand .opa ^ (s.operand .opb).toNat % s.operand .opc) 0 0 false) := by
  obtain ⟨w, hsteps⟩ := modpow_commits (w := s.snapshot .modpow) hm he
  have hzero := fitsW_of_bit h.inv.params (.inl rfl)
  exact ⟨w, h.completes hsteps (fitsW_emod_operand s hm _) hzero hzero⟩

theorem Ready.modpow_fails_invalidModulus (hm : s.operand .opc ≤ 0) :
    ∃ w, EndsWithCalls 0 (s.accept .modpow) (s.failed .modpow w .invalidModulus) :=
  ⟨_, h.fails (c := .modpow) (modpow_raises_invalidModulus hm)⟩

theorem Ready.modpow_fails_negativeExponent (hm : 0 < s.operand .opc)
    (he : s.operand .opb < 0) :
    ∃ w, EndsWithCalls 0 (s.accept .modpow) (s.failed .modpow w .negativeExponent) :=
  ⟨_, h.fails (c := .modpow) (modpow_raises_negativeExponent hm he)⟩

/-- MODPOW ends with the requests that R194 counts, whatever its operands. -/
theorem Ready.modpow_ends :
    ∃ t, EndsWithCalls (modpowCalls (s.operand .opc) (s.operand .opb)) (s.accept .modpow) t := by
  by_cases hm : s.operand .opc ≤ 0
  · obtain ⟨w, hrun⟩ := h.modpow_fails_invalidModulus hm
    rw [modpowCalls, if_pos (by omega)]
    exact ⟨_, hrun⟩
  by_cases he : s.operand .opb < 0
  · obtain ⟨w, hrun⟩ := h.modpow_fails_negativeExponent (not_le.mp hm) he
    rw [modpowCalls, if_pos (.inr he)]
    exact ⟨_, hrun⟩
  · obtain ⟨w, hrun⟩ := h.modpow_completes (not_le.mp hm) (not_lt.mp he)
    exact ⟨_, hrun⟩
end

/-! ### The statements -/

/-- Settles O41: every pass keeps the power that P2 has still to compute. -/
theorem modpowCommitsThePower : Obligations.ModpowCommitsThePower := by
  intro s h hm he
  obtain ⟨w, n, hrun, -⟩ := h.modpow_completes hm he
  exact ⟨_, n, w, exec_command_of_idle .modpow h.idle, hrun⟩

/-- Settles O46: the same runs, with their requests counted. -/
theorem modpowTransactionCount : Obligations.ModpowTransactionCount := by
  intro s h
  obtain ⟨t, n, hrun, hcalls⟩ := h.modpow_ends
  exact ⟨_, t, n, exec_command_of_idle .modpow h.idle, hrun, hcalls⟩

/-- Settles O42: P0 raises. -/
theorem modpowReportsTheFirstFailingCheck : Obligations.ModpowReportsTheFirstFailingCheck := by
  refine fun s h => ⟨fun hm => ?_, fun hm he => ?_⟩
  · obtain ⟨w, hends⟩ := h.modpow_fails_invalidModulus hm
    obtain ⟨n, hrun⟩ := hends.no_request
    exact ⟨_, n, w, exec_command_of_idle .modpow h.idle, hrun⟩
  · obtain ⟨w, hends⟩ := h.modpow_fails_negativeExponent hm he
    obtain ⟨n, hrun⟩ := hends.no_request
    exact ⟨_, n, w, exec_command_of_idle .modpow h.idle, hrun⟩

end Sys2Proof.Machine
end

section
/-! Progress with reset released, and the interrupt at the end of a command (O19, O20). -/

namespace Sys2Proof.Machine

/-! ### Progress -/

/-- A turn that is not the host program's always has a next state with reset released (R65, R217). -/
theorem takeTurn_next {s : State} {turn : Turn} (hrst : s.rst = false) (hturn : turn ≠ .host) :
    ∃ t, takeTurn exec turn s = .next t := by
  cases turn with
  | engine         => exact engineTurn_next s
  | host           => exact absurd rfl hturn
  | access a       => exact portAccess_next a hrst
  | assertReset    => exact ⟨_, rfl⟩
  | releaseReset   => exact ⟨_, rfl⟩
  | lateResponse v => exact ⟨_, rfl⟩

/-- Settles O19: a step is the move of the next turn. -/
theorem everyTurnOfTheBlockHasANextState : Obligations.EveryTurnOfTheBlockHasANextState :=
  fun s hrst hturn => takeTurn_next (s := s.popTurn) hrst hturn

/-! ### Completion -/

/-- A move of the sequencer that ends the command is a commit or a raise, and each sets DONE and clears
BUSY (R126, R127). -/
theorem applyMove_status_of_completion {s : State} {mv : Move} (hrun : s.phase ≠ .idle)
    (hidle : (s.applyMove mv).phase = .idle) :
    (s.applyMove mv).status.done = true ∧ (s.applyMove mv).status.busy = false := by
  obtain ⟨l, -, h⟩ | ⟨op, x, y, -, h⟩ | ⟨x, y, z, b, -, h⟩ | ⟨e, -, h⟩ := applyMove_cases s mv <;>
    rw [h] at hidle ⊢
  · cases hidle
  · exact absurd hidle hrun
  · obtain ⟨-, -, -, hc⟩ | hc := commit_cases { s with work := mv.work } x y z b <;>
      rw [hc] <;> exact ⟨rfl, rfl⟩
  · exact ⟨rfl, rfl⟩

theorem EngineMove.status_of_completion {s t : State} (h : EngineMove s t)
    (hrun : s.phase ≠ .idle) (hidle : t.phase = .idle) :
    t.status.done = true ∧ t.status.busy = false := by
  cases h with
  | inReset _       => exact absurd hidle hrun
  | idle hp _ _     => exact absurd hp hrun
  | discard hp _    => exact absurd hp hrun
  | handshake _ _ _ => exact absurd hidle hrun
  | answer _ _ _    => exact absurd hidle hrun
  | start _ _ _     => exact applyMove_status_of_completion hrun hidle
  | resume _ _      => exact applyMove_status_of_completion (s := s.takeResponse) hrun hidle

/-- Once DONE is set, irq is DONE_IE (R34). -/
theorem irq_of_done {s : State} (h : s.status.done = true) : s.irq = s.doneIe := by
  simp [State.irq, h]

/-- Settles O20: the completion sets DONE, and the engine leaves DONE_IE and NTE_IRQ alone. -/
theorem completionRaisesTheInterrupt : Obligations.CompletionRaisesTheInterrupt := by
  intro s t hn hs hr hidle
  rw [step_eq, hn] at hs
  have hm : EngineMove s.popTurn t := engineMove_of_engineTurn hs
  obtain ⟨hframe, -, -⟩ := hm.frame
  have hdoneIe : t.doneIe = s.doneIe := (congrArg State.doneIe hframe :)
  have hparams : t.params = s.params := (congrArg State.params hframe :)
  have hrun : s.phase ≠ .idle := fun hp => by rw [hp] at hr; cases hr
  obtain ⟨hdone, hbusy⟩ := hm.status_of_completion hrun hidle
  have hirq : t.irq = s.doneIe := (irq_of_done hdone).trans hdoneIe
  exact ⟨hdone, hbusy, hirq, by rw [State.irqLine, hirq, hparams]⟩

end Sys2Proof.Machine
end

section
/-! Reset, its release and what is ignored after it (O24, O31, O32, O33, O34). -/

namespace Sys2Proof.Machine

/-! ### The values after reset (R240) -/

/-- Words that are all 0 hold the number 0 (R63). -/
theorem wordsToNat_replicate_zero (n : Nat) : wordsToNat (List.replicate n 0#32) = 0 := by
  induction n with
  | zero      => rfl
  | succ n ih => simp [List.replicate_succ, wordsToNat, ih]

theorem valueOf_replicate_zero (p : Params) (n : Nat) : valueOf p (List.replicate n 0#32) = 0 := by
  simp [valueOf, patternOf, sintW, wordsToNat_replicate_zero]

/-- Settles O31: the six data registers hold words that are all 0; the other values are those of the
reset state itself. -/
theorem resetValues : Obligations.ResetValues := by
  intro p _
  have hzero : valueOf p (List.replicate p.nw 0#32) = 0 := valueOf_replicate_zero p p.nw
  have hstatus : Status.atReset.word = 0#32 := by decide
  have hirqEn : irqEnWord false = 0#32 := irqEnWord_eq false
  exact ⟨hzero, hzero, hzero, hzero, hzero, hzero, hstatus, hirqEn, rfl, rfl, rfl, rfl, rfl⟩

theorem inv_resetWith {p : Params} (hp : p.Wf) : Inv (State.resetWith p) where
  params   := hp
  lengths  := by simp [State.resetWith]
  busy     := rfl
  clean    := nofun
  lastOp   := nofun
  idlePort := fun _ => ⟨rfl, rfl⟩
  request  := nofun
  accepted := nofun
  response := nofun
  label    := nofun
  inReset  := nofun

/-- Settles O34: the block is idle with nothing on the port, and each data register has NW words. -/
theorem resetSatisfiesTheInvariant : Obligations.ResetSatisfiesTheInvariant :=
  fun _ => inv_resetWith

/-! ### The platform's turns (R32, R241, R242) -/

section
variable {s : State}

theorem step_of_assertReset (hn : s.nextTurn = .assertReset) :
    step s = .next s.popTurn.assertReset := by
  rw [step_eq, hn]; rfl

theorem step_of_releaseReset (hn : s.nextTurn = .releaseReset) :
    step s = .next s.popTurn.releaseReset := by
  rw [step_eq, hn]; rfl

theorem step_of_lateResponse {v : Int} (hn : s.nextTurn = .lateResponse v) :
    step s = .next s.popTurn := by
  rw [step_eq, hn]; rfl

/-- The response of the coming turn is the one on the port (R32). -/
theorem xRsp_of_lateResponse {v : Int} (hn : s.nextTurn = .lateResponse v) : s.xRsp = some v := by
  rw [State.xRsp, hn]

end

theorem assertReset_opReg (s : State) (r : OpReg) :
    s.assertReset.opReg r = List.replicate s.params.nw 0#32 := by
  cases r <;> rfl

theorem assertReset_resReg (s : State) (r : ResReg) :
    s.assertReset.resReg r = List.replicate s.params.nw 0#32 := by
  cases r <;> rfl

/-- Settles O32: the step is the reset of the state with the turn taken off the schedule. -/
theorem resetAbandonsTheCommand : Obligations.ResetAbandonsTheCommand := fun s hn =>
  ⟨s.popTurn.assertReset, step_of_assertReset hn, rfl, rfl, rfl, rfl, rfl, rfl, rfl, rfl,
    assertReset_opReg s.popTurn, assertReset_resReg s.popTurn, rfl, rfl, rfl⟩

/-- Settles O33: the late response is seen in its turn, and neither turn does more than its one
effect. -/
theorem lateResponseAndReleaseChangeNothingElse :
    Obligations.LateResponseAndReleaseChangeNothingElse := by
  refine fun s => ⟨fun v hn => ?_, step_of_releaseReset⟩
  have hrsp : s.xRsp = some v := xRsp_of_lateResponse hn
  exact ⟨by rw [State.xRspValid, hrsp]; rfl, by rw [State.xRspData, hrsp]; rfl,
    step_of_lateResponse hn⟩

/-! ### An access in reset (R242) -/

/-- Settles O24: the reset line is looked at before the access is. -/
theorem accessDuringResetIsRefused : Obligations.AccessDuringResetIsRefused :=
  fun _ _ hrst => if_pos hrst

end Sys2Proof.Machine
end
